-- ==== Sys2Proof/Word.lean ====
section
/-! DEFINITION. The value types of the block: 8-bit bytes, 16-bit words, register numbers, pixels and keys. -/

namespace Sys2Proof

/-- An 8-bit value: a general register, a timer, a byte of memory (10_state.md R21, R27; 20_memory.md R50). -/
abbrev Byte := BitVec 8

/-- A 16-bit value: I, PC, a stack entry, an instruction word (10_state.md R23 to R25; 30_encoding.md R70). -/
abbrev Word := BitVec 16

/-- The number of a general register, 0..15 (10_state.md R21). -/
abbrev Reg := Fin 16

/-- VF, the flag register, is V[15] (10_state.md R22). -/
def vF : Reg := 15

/-- The grid of 64 × 32 pixels, row by row; true means set (10_state.md R30). -/
abbrev Framebuffer := Vector (Vector Bool 64) 32

/-- `Keys[0..15]`; true means pressed (10_state.md R31). -/
abbrev Keypad := Vector Bool 16

end Sys2Proof
end

