-- ==== Sys2Proof/Config.lean ====
section
/-! DEFINITION. The parameters of the block (00_scope.md R5) and the one free value, the random byte. -/

namespace Sys2Proof

/-- `VF_ALIAS_POLICY` (00_scope.md R5, 42_load_arithmetic.md R121). -/
inductive VfAliasPolicy where
  /-- The aliasing cases run as R128 to R132 give them: operands read first, VF written first, the result last. -/
  | snapshot
  /-- The aliasing cases have no meaning: the run is refused. -/
  | refuse
  deriving DecidableEq, Repr

/-- The parameters 00_scope.md R5 calls OPEN, with `VF_ALIAS_POLICY`: plain data, fixed for a block. -/
structure Params where
  /-- `GLYPH_TABLE`, the bytes of 0x000–0x04F (20_memory.md R57). -/
  glyphTable : Vector Byte 80
  /-- `INIT_V`. -/
  initV : Vector Byte 16
  /-- `INIT_I`. -/
  initI : Word
  /-- `INIT_DT`. -/
  initDt : Byte
  /-- `INIT_ST`. -/
  initSt : Byte
  /-- `INIT_MEM`: the bytes of 0x050–0xFFF that are not zero, in rising order of address. -/
  initMem : List Host.Cell
  /-- `INIT_FB`. -/
  initFb : Framebuffer
  /-- `VF_ALIAS_POLICY`. -/
  vfAliasPolicy : VfAliasPolicy
  deriving DecidableEq, Repr

/-- The random bytes nobody has supplied: the k-th such byte, with no law at all (44_random.md R150).
DESIGN CHOICE, safe: entry 8. A free value: nothing can evaluate it. -/
opaque Config.freeRandomByte : Nat → Byte

end Sys2Proof
end

