-- ==== Sys2Proof/Syntax.lean ====
section
/-! DEFINITION. The 33 instructions, one constructor per row of spec/opcode_table.json (30_encoding.md R74). -/

namespace Sys2Proof

/-- An instruction with its operand fields (30_encoding.md R71): x and y are register numbers, kk an 8-bit immediate,
nnn a 12-bit address, n an unsigned count of sprite rows (R72). -/
inductive Instr where
  /-- 00E0 CLS (40_control.md R100). -/
  | cls
  /-- 00EE RET (40_control.md R101). -/
  | ret
  /-- 1nnn JP nnn (40_control.md R102). -/
  | jp (nnn : BitVec 12)
  /-- 2nnn CALL nnn (40_control.md R103). -/
  | call (nnn : BitVec 12)
  /-- Bnnn JP V0, nnn (40_control.md R104). -/
  | jpV0 (nnn : BitVec 12)
  /-- 3xkk SE Vx, kk (41_conditional_skip.md R110). -/
  | seImm (x : Reg) (kk : Byte)
  /-- 4xkk SNE Vx, kk (41_conditional_skip.md R111). -/
  | sneImm (x : Reg) (kk : Byte)
  /-- 5xy0 SE Vx, Vy (41_conditional_skip.md R112). -/
  | seReg (x y : Reg)
  /-- 9xy0 SNE Vx, Vy (41_conditional_skip.md R113). -/
  | sneReg (x y : Reg)
  /-- 6xkk LD Vx, kk (42_load_arithmetic.md R122). -/
  | ldImm (x : Reg) (kk : Byte)
  /-- 7xkk ADD Vx, kk (42_load_arithmetic.md R123). -/
  | addImm (x : Reg) (kk : Byte)
  /-- 8xy0 LD Vx, Vy (42_load_arithmetic.md R124). -/
  | ldReg (x y : Reg)
  /-- 8xy1 OR Vx, Vy (42_load_arithmetic.md R125). -/
  | orReg (x y : Reg)
  /-- 8xy2 AND Vx, Vy (42_load_arithmetic.md R126). -/
  | andReg (x y : Reg)
  /-- 8xy3 XOR Vx, Vy (42_load_arithmetic.md R127). -/
  | xorReg (x y : Reg)
  /-- 8xy4 ADD Vx, Vy (42_load_arithmetic.md R128). -/
  | addReg (x y : Reg)
  /-- 8xy5 SUB Vx, Vy (42_load_arithmetic.md R129). -/
  | subReg (x y : Reg)
  /-- 8xy6 SHR Vx, Vy: the operand is Vy, x is encoded and ignored (42_load_arithmetic.md R130). -/
  | shrReg (x y : Reg)
  /-- 8xy7 SUBN Vx, Vy (42_load_arithmetic.md R131). -/
  | subnReg (x y : Reg)
  /-- 8xyE SHL Vx, Vy: the operand is Vy, x is encoded and ignored (42_load_arithmetic.md R132). -/
  | shlReg (x y : Reg)
  /-- Annn LD I, nnn (43_memory_ops.md R140). -/
  | ldI (nnn : BitVec 12)
  /-- Fx1E ADD I, Vx (43_memory_ops.md R141). -/
  | addI (x : Reg)
  /-- Fx33 LD B, Vx (43_memory_ops.md R142). -/
  | ldB (x : Reg)
  /-- Fx55 LD [I], Vx (43_memory_ops.md R143). -/
  | storeRegs (x : Reg)
  /-- Fx65 LD Vx, [I] (43_memory_ops.md R144). -/
  | loadRegs (x : Reg)
  /-- Cxkk RND Vx, kk (44_random.md R151). -/
  | rnd (x : Reg) (kk : Byte)
  /-- Dxyn DRW Vx, Vy, n (45_sprite_draw.md R161). -/
  | drw (x y : Reg) (n : Nat)
  /-- Ex9E SKP Vx (46_input.md R170). -/
  | skp (x : Reg)
  /-- ExA1 SKNP Vx (46_input.md R171). -/
  | sknp (x : Reg)
  /-- Fx07 LD Vx, DT (47_timers.md R180). -/
  | ldVxDt (x : Reg)
  /-- Fx15 LD DT, Vx (47_timers.md R181). -/
  | ldDtVx (x : Reg)
  /-- Fx18 LD ST, Vx (47_timers.md R182). -/
  | ldStVx (x : Reg)
  /-- Fx29 LD F, Vx (47_timers.md R183). -/
  | ldF (x : Reg)
  deriving DecidableEq, Repr

end Sys2Proof
end

