-- ==== Sys2Proof/Decode.lean ====
section
/-! DEFINITION. The decoder and, after it, the encoder (30_encoding.md R70 to R76).
UNVERIFIED, unsafe: the opcode values are the conventional CHIP-8 ones, as R74 gives them (entry 17). -/

namespace Sys2Proof

/-- `w[lo+width-1 : lo]` as a number (00_scope.md R7). -/
def bits (w : Word) (lo width : Nat) : Nat := w.toNat / 2 ^ lo % 2 ^ width

/-- The field op = w[15:12] (30_encoding.md R71). -/
def fieldOp (w : Word) : Nat := bits w 12 4

/-- The field x = w[11:8], a register number (30_encoding.md R71). -/
def fieldX (w : Word) : Reg := Fin.ofNat 16 (bits w 8 4)

/-- The field y = w[7:4], a register number (30_encoding.md R71). -/
def fieldY (w : Word) : Reg := Fin.ofNat 16 (bits w 4 4)

/-- The field n = w[3:0] (30_encoding.md R71). -/
def fieldN (w : Word) : Nat := bits w 0 4

/-- The field kk = w[7:0] (30_encoding.md R71). -/
def fieldKK (w : Word) : Byte := BitVec.ofNat 8 (bits w 0 8)

/-- The field nnn = w[11:0] (30_encoding.md R71). -/
def fieldNNN (w : Word) : BitVec 12 := BitVec.ofNat 12 (bits w 0 12)

/-- Why bytes are no instruction. -/
inductive DecodeError where
  /-- The word matches no row of 30_encoding.md R74: illegal, R75. -/
  | unknownOpcode (w : Word)
  /-- Fewer than the 2 bytes of an instruction (30_encoding.md R70). The fetch always gives 2, so a step never meets it. -/
  | truncated
  deriving DecidableEq, Repr

/-- Opcodes 8xy-, dispatched on n (30_encoding.md R74). -/
def decode8 (w : Word) : Except DecodeError Instr :=
  match fieldN w with
  | 0x0 => .ok (.ldReg (fieldX w) (fieldY w))
  | 0x1 => .ok (.orReg (fieldX w) (fieldY w))
  | 0x2 => .ok (.andReg (fieldX w) (fieldY w))
  | 0x3 => .ok (.xorReg (fieldX w) (fieldY w))
  | 0x4 => .ok (.addReg (fieldX w) (fieldY w))
  | 0x5 => .ok (.subReg (fieldX w) (fieldY w))
  | 0x6 => .ok (.shrReg (fieldX w) (fieldY w))
  | 0x7 => .ok (.subnReg (fieldX w) (fieldY w))
  | 0xE => .ok (.shlReg (fieldX w) (fieldY w))
  | _ => .error (.unknownOpcode w)

/-- Opcodes Ex--, dispatched on kk (30_encoding.md R74). -/
def decodeE (w : Word) : Except DecodeError Instr :=
  match bits w 0 8 with
  | 0x9E => .ok (.skp (fieldX w))
  | 0xA1 => .ok (.sknp (fieldX w))
  | _ => .error (.unknownOpcode w)

/-- Opcodes Fx--, dispatched on kk (30_encoding.md R74). -/
def decodeF (w : Word) : Except DecodeError Instr :=
  match bits w 0 8 with
  | 0x07 => .ok (.ldVxDt (fieldX w))
  | 0x15 => .ok (.ldDtVx (fieldX w))
  | 0x18 => .ok (.ldStVx (fieldX w))
  | 0x1E => .ok (.addI (fieldX w))
  | 0x29 => .ok (.ldF (fieldX w))
  | 0x33 => .ok (.ldB (fieldX w))
  | 0x55 => .ok (.storeRegs (fieldX w))
  | 0x65 => .ok (.loadRegs (fieldX w))
  | _ => .error (.unknownOpcode w)

/-- `Decode(w)` of 30_encoding.md R74: one instruction, or UNKNOWN (R75). -/
def decodeWord (w : Word) : Except DecodeError Instr :=
  match fieldOp w with
  | 0x0 =>
    if w = 0x00E0 then .ok .cls
    else if w = 0x00EE then .ok .ret
    else .error (.unknownOpcode w)
  | 0x1 => .ok (.jp (fieldNNN w))
  | 0x2 => .ok (.call (fieldNNN w))
  | 0x3 => .ok (.seImm (fieldX w) (fieldKK w))
  | 0x4 => .ok (.sneImm (fieldX w) (fieldKK w))
  | 0x5 => if fieldN w = 0 then .ok (.seReg (fieldX w) (fieldY w)) else .error (.unknownOpcode w)
  | 0x6 => .ok (.ldImm (fieldX w) (fieldKK w))
  | 0x7 => .ok (.addImm (fieldX w) (fieldKK w))
  | 0x8 => decode8 w
  | 0x9 => if fieldN w = 0 then .ok (.sneReg (fieldX w) (fieldY w)) else .error (.unknownOpcode w)
  | 0xA => .ok (.ldI (fieldNNN w))
  | 0xB => .ok (.jpV0 (fieldNNN w))
  | 0xC => .ok (.rnd (fieldX w) (fieldKK w))
  | 0xD => .ok (.drw (fieldX w) (fieldY w) (fieldN w))
  | 0xE => decodeE w
  | 0xF => decodeF w
  | _ => .error (.unknownOpcode w)   -- op has 4 bits: no word reaches this arm

/-- `(hi << 8) | lo`: the word two bytes make, most significant byte first (20_memory.md R54, R55). -/
def wordOfBytes (hi lo : Byte) : Word := BitVec.ofNat 16 (hi.toNat * 256 + lo.toNat)

/-- The two bytes of a word in the order they lie in memory (20_memory.md R55). -/
def bytesOfWord (w : Word) : List Byte := [BitVec.ofNat 8 (w.toNat / 256), BitVec.ofNat 8 w.toNat]

/-- The instruction at the front of `bytes`, with the bytes after it. Always 2 bytes are consumed (30_encoding.md R70). -/
def decode (bytes : List Byte) : Except DecodeError (Instr × List Byte) :=
  match bytes with
  | hi :: lo :: rest =>
    match decodeWord (wordOfBytes hi lo) with
    | .ok i => .ok (i, rest)
    | .error e => .error e
  | _ => .error .truncated

/-- The host's question: the instruction the decoder reads from a word whose bits are `w`, of which the table gives
`nbits`; every bit above them is 0. -/
def decodeTableWord (nbits w : Nat) : Option Instr :=
  match decode (bytesOfWord (BitVec.ofNat 16 (w % 2 ^ nbits))) with
  | .ok (i, _) => some i
  | .error _ => none

/-- Format `nnn` (30_encoding.md R73): op(4) nnn(12). -/
def encNNN (op : Nat) (nnn : BitVec 12) : Word := BitVec.ofNat 16 (op * 4096 + nnn.toNat)

/-- Formats `xkk` and `xfn` (30_encoding.md R73): op(4) x(4) kk(8). -/
def encXKK (op : Nat) (x : Reg) (kk : Nat) : Word := BitVec.ofNat 16 (op * 4096 + x.val * 256 + kk)

/-- Format `xyn` (30_encoding.md R73): op(4) x(4) y(4) n(4). -/
def encXYN (op : Nat) (x y : Reg) (n : Nat) : Word :=
  BitVec.ofNat 16 (op * 4096 + x.val * 256 + y.val * 16 + n % 16)

/-- The word of an instruction, written from the patterns of the table of 30_encoding.md R74. -/
def encode (i : Instr) : Word :=
  match i with
  | .cls => 0x00E0
  | .ret => 0x00EE
  | .jp nnn => encNNN 0x1 nnn
  | .call nnn => encNNN 0x2 nnn
  | .jpV0 nnn => encNNN 0xB nnn
  | .seImm x kk => encXKK 0x3 x kk.toNat
  | .sneImm x kk => encXKK 0x4 x kk.toNat
  | .seReg x y => encXYN 0x5 x y 0x0
  | .sneReg x y => encXYN 0x9 x y 0x0
  | .ldImm x kk => encXKK 0x6 x kk.toNat
  | .addImm x kk => encXKK 0x7 x kk.toNat
  | .ldReg x y => encXYN 0x8 x y 0x0
  | .orReg x y => encXYN 0x8 x y 0x1
  | .andReg x y => encXYN 0x8 x y 0x2
  | .xorReg x y => encXYN 0x8 x y 0x3
  | .addReg x y => encXYN 0x8 x y 0x4
  | .subReg x y => encXYN 0x8 x y 0x5
  | .shrReg x y => encXYN 0x8 x y 0x6
  | .subnReg x y => encXYN 0x8 x y 0x7
  | .shlReg x y => encXYN 0x8 x y 0xE
  | .ldI nnn => encNNN 0xA nnn
  | .addI x => encXKK 0xF x 0x1E
  | .ldB x => encXKK 0xF x 0x33
  | .storeRegs x => encXKK 0xF x 0x55
  | .loadRegs x => encXKK 0xF x 0x65
  | .rnd x kk => encXKK 0xC x kk.toNat
  | .drw x y n => encXYN 0xD x y n
  | .skp x => encXKK 0xE x 0x9E
  | .sknp x => encXKK 0xE x 0xA1
  | .ldVxDt x => encXKK 0xF x 0x07
  | .ldDtVx x => encXKK 0xF x 0x15
  | .ldStVx x => encXKK 0xF x 0x18
  | .ldF x => encXKK 0xF x 0x29

/-- The bytes of an instruction in memory order. -/
def encodeBytes (i : Instr) : List Byte := bytesOfWord (encode i)

/-- The mask and the match of an instruction's row, copied from the table of 30_encoding.md R74. -/
def tableRow (i : Instr) : Word × Word :=
  match i with
  | .cls => (0xFFFF, 0x00E0)
  | .ret => (0xFFFF, 0x00EE)
  | .jp _ => (0xF000, 0x1000)
  | .call _ => (0xF000, 0x2000)
  | .jpV0 _ => (0xF000, 0xB000)
  | .seImm _ _ => (0xF000, 0x3000)
  | .sneImm _ _ => (0xF000, 0x4000)
  | .seReg _ _ => (0xF00F, 0x5000)
  | .sneReg _ _ => (0xF00F, 0x9000)
  | .ldImm _ _ => (0xF000, 0x6000)
  | .addImm _ _ => (0xF000, 0x7000)
  | .ldReg _ _ => (0xF00F, 0x8000)
  | .orReg _ _ => (0xF00F, 0x8001)
  | .andReg _ _ => (0xF00F, 0x8002)
  | .xorReg _ _ => (0xF00F, 0x8003)
  | .addReg _ _ => (0xF00F, 0x8004)
  | .subReg _ _ => (0xF00F, 0x8005)
  | .shrReg _ _ => (0xF00F, 0x8006)
  | .subnReg _ _ => (0xF00F, 0x8007)
  | .shlReg _ _ => (0xF00F, 0x800E)
  | .ldI _ => (0xF000, 0xA000)
  | .addI _ => (0xF0FF, 0xF01E)
  | .ldB _ => (0xF0FF, 0xF033)
  | .storeRegs _ => (0xF0FF, 0xF055)
  | .loadRegs _ => (0xF0FF, 0xF065)
  | .rnd _ _ => (0xF000, 0xC000)
  | .drw _ _ _ => (0xF000, 0xD000)
  | .skp _ => (0xF0FF, 0xE09E)
  | .sknp _ => (0xF0FF, 0xE0A1)
  | .ldVxDt _ => (0xF0FF, 0xF007)
  | .ldDtVx _ => (0xF0FF, 0xF015)
  | .ldStVx _ => (0xF0FF, 0xF018)
  | .ldF _ => (0xF0FF, 0xF029)

end Sys2Proof
end

