-- ==== Sys2Proof/Machine/ResetValues.lean ====
section
/-! DEFINITION. The values the OPEN parameters take in `State.reset`, and what a byte of memory that is not listed reads
as. -/

namespace Sys2Proof.Machine

/-- The reference font of 20_memory.md R57, glyph d at 5·d, top row first.
PRESUMED, unsafe: the source does not give the 80 bytes (entry 4). -/
def referenceGlyphTable : Vector Byte 80 :=
  #v[0xF0, 0x90, 0x90, 0x90, 0xF0,  -- 0
     0x20, 0x60, 0x20, 0x20, 0x70,  -- 1
     0xF0, 0x10, 0xF0, 0x80, 0xF0,  -- 2
     0xF0, 0x10, 0xF0, 0x10, 0xF0,  -- 3
     0x90, 0x90, 0xF0, 0x10, 0x10,  -- 4
     0xF0, 0x80, 0xF0, 0x10, 0xF0,  -- 5
     0xF0, 0x80, 0xF0, 0x90, 0xF0,  -- 6
     0xF0, 0x10, 0x20, 0x40, 0x40,  -- 7
     0xF0, 0x90, 0xF0, 0x90, 0xF0,  -- 8
     0xF0, 0x90, 0xF0, 0x10, 0xF0,  -- 9
     0xF0, 0x90, 0xF0, 0x90, 0x90,  -- A
     0xE0, 0x90, 0xE0, 0x90, 0xE0,  -- B
     0xF0, 0x80, 0x80, 0x80, 0xF0,  -- C
     0xE0, 0x90, 0x90, 0x90, 0xE0,  -- D
     0xF0, 0x80, 0xF0, 0x80, 0xF0,  -- E
     0xF0, 0x80, 0xF0, 0x80, 0x80]  -- F

/-- A framebuffer with every pixel unset. -/
def clearFb : Framebuffer := Vector.replicate 32 (Vector.replicate 64 false)

/-- The parameters of a simulator: "Each OPEN parameter takes the value 0 (or all pixels unset) in a simulator"
(00_scope.md R5), the reference font (20_memory.md R57) and the default alias policy (42_load_arithmetic.md R121).
DESIGN CHOICE, unsafe: the spec leaves the values open (entries 3, 4, 5, 7). -/
def simulatorParams : Params where
  glyphTable := referenceGlyphTable
  initV := Vector.replicate 16 0x00
  initI := 0x0000
  initDt := 0x00
  initSt := 0x00
  initMem := []
  initFb := clearFb
  vfAliasPolicy := .snapshot

/-- What an address that memory does not list reads as: the glyph table's byte in 0x000–0x04F (20_memory.md R51, R57),
and 0 above. DESIGN CHOICE, unsafe: the 0 is the simulator's INIT_MEM (entry 5); another INIT_MEM is listed. -/
def unlistedByte (p : Params) (a : Nat) : Byte := if h : a < 80 then p.glyphTable[a] else 0x00

end Sys2Proof.Machine
end

