-- ==== Sys2Proof/Machine/State.lean ====
section
/-! DEFINITION. Everything the spec gives the machine, as plain data, and the state right after reset. -/

namespace Sys2Proof.Machine

/-- Memory: the bytes that differ from `unlistedByte`, as (address, byte) pairs with rising addresses
(20_memory.md R50). -/
abbrev Memory := List Host.Cell

/-- The in-cycle fault kinds of 60_exceptions.md R200, each with its `addr` or `value`. Raising one is a NEXT state
whose `fault` field records it (R203): no step ends in `Host.Outcome.fault` (entry 1). -/
inductive Fault where
  /-- Code 1. Raised by the Cycle for a word that is no instruction (30_encoding.md R75). Safe: the spec's own fault. -/
  | unknownOpcode
  /-- Code 2. Raised by CALL with SP = 16 (10_state.md R26, 40_control.md R103). Safe: the spec's own fault. -/
  | stackOverflow
  /-- Code 3. Raised by RET with SP = 0 (10_state.md R26, 40_control.md R101). Safe: the spec's own fault. -/
  | stackUnderflow
  /-- Code 4. Raised by the fetch and by DRW, LD B, LD [I], LD Vx,[I] at an address above 0xFFF (20_memory.md R52 to R54)
  and by ADD I, Vx above 0xFFFF (43_memory_ops.md R141). Safe: the spec's own fault. -/
  | outOfBoundsAccess (addr : Nat)
  /-- Code 5. Raised by SKP and SKNP with Vx > 0x0F (46_input.md R170, R171). Safe: the spec's own fault. -/
  | invalidKeyIndex (value : Byte)
  /-- Code 6. Raised by LD F, Vx with Vx > 0x0F (47_timers.md R183). Safe: the spec's own fault. -/
  | invalidGlyphDigit (value : Byte)
  /-- Code 7. Raised by LD B and LD [I] at an address in 0x000–0x04F (20_memory.md R53). Safe: the spec's own fault. -/
  | protectedWrite (addr : Nat)
  deriving DecidableEq, Repr

/-- The record of a fault (10_state.md R32): its kind with addr or value, the address of the instruction that faulted,
and the instruction word if the fetch succeeded. -/
structure FaultRecord where
  kind : Fault
  pc : Word
  opcode : Option Word
  deriving DecidableEq, Repr

/-- What a load can report (60_exceptions.md R200, code 16). It is a load-time result, recoverable, and no fault state: no
`FaultRecord` holds one. -/
inductive LoadError where
  /-- Code 16. Reported by LoadRom for more than 3584 bytes, with their length (70_reset_and_hazards.md R232). -/
  | romTooLarge (length : Nat)
  deriving DecidableEq, Repr

/-- What the model refuses, each by a name of its own. -/
inductive Refusal where
  /-- An instruction the model gives no meaning yet. No arm of `exec` uses it. Safe. -/
  | notModelled (mnemonic : String)
  /-- ADD, SUB or SUBN with x = F or y = F, SHR or SHL with y = F, under `VF_ALIAS_POLICY = refuse`: the spec gives these
  cases no meaning there (42_load_arithmetic.md R121). Never under snapshot, the default. Safe. -/
  | vfAlias
  /-- LoadRom after the first Cycle since Reset: the spec gives it no meaning (70_reset_and_hazards.md R234). Safe. -/
  | loadRomAfterCycle
  deriving DecidableEq, Repr

/-- What the environment can do to the block (10_state.md R40), one whole step each (70_reset_and_hazards.md R235). -/
inductive Transaction where
  /-- The driver invokes Cycle (30_encoding.md R77). -/
  | cycle
  /-- The driver invokes Tick (60_exceptions.md R209). -/
  | tick
  /-- The driver invokes Reset (70_reset_and_hazards.md R230). -/
  | reset
  /-- The loader invokes LoadRom (70_reset_and_hazards.md R232). -/
  | loadRom (bytes : List Byte)
  /-- The input collaborator changes the level of `Keys` (10_state.md R31). -/
  | setKeys (keys : Keypad)
  deriving DecidableEq, Repr

/-- The state: the record of 10_state.md R20 (`v` to `fault`), then the inputs, outputs, order and parameters of the
block, which R20 keeps apart and which stand here because a step is a function of the state alone. -/
structure State where
  /-- V0..VF (10_state.md R21, R22). -/
  v : Vector Byte 16
  /-- I (10_state.md R23). -/
  i : Word
  /-- PC (10_state.md R24). -/
  pc : Word
  /-- The 16 stack entries (10_state.md R25); those at `sp` and above are dead. -/
  stack : Vector Word 16
  /-- SP, 0..16 (10_state.md R25). -/
  sp : Fin 17
  /-- DT (10_state.md R27). -/
  dt : Byte
  /-- ST (10_state.md R28). -/
  st : Byte
  /-- Memory (20_memory.md R50). -/
  mem : Memory
  /-- The framebuffer (10_state.md R30). -/
  fb : Framebuffer
  /-- none while running, a record while halted (10_state.md R32). -/
  fault : Option FaultRecord
  /-- Input: the level of `Keys` (10_state.md R31). -/
  keys : Keypad
  /-- Input, the model's own: random bytes already supplied, oldest first (44_random.md R150, entry 8). -/
  rand : List Byte
  /-- Input, the model's own: how many free random bytes have been drawn (44_random.md R150, entry 8). -/
  draws : Nat
  /-- Output, the model's own: how many times Repaint has been emitted (10_state.md R40, entry 12). -/
  repaints : Nat
  /-- Output, the model's own: RomTooLarge with its length if the last LoadRom reported it (70_reset_and_hazards.md R232,
  60_exceptions.md R200, entry 12). -/
  loadReport : Option LoadError
  /-- Order, the model's own: a Cycle has begun an instruction since Reset (70_reset_and_hazards.md R234, entry 11). -/
  started : Bool
  /-- Order, the model's own: the transactions already chosen, oldest first; when there is none the next is a Cycle
  (70_reset_and_hazards.md R235, entry 10). -/
  driver : List Transaction
  /-- The fixed parameters (00_scope.md R5, entry 3). No step changes them. -/
  params : Params
  deriving DecidableEq, Repr

/-- The state after the first Reset of a block with parameters `p` (10_state.md R34, 70_reset_and_hazards.md R230).
DESIGN CHOICE, unsafe: zero in the stack entries, no key pressed, nothing queued (entries 6, 8, 9, 10, 12). -/
def State.resetWith (p : Params) : State where
  v := p.initV
  i := p.initI
  pc := 0x200
  stack := Vector.replicate 16 0x0000
  sp := 0
  dt := p.initDt
  st := p.initSt
  mem := p.initMem
  fb := p.initFb
  fault := none
  keys := Vector.replicate 16 false
  rand := []
  draws := 0
  repaints := 0
  loadReport := none
  started := false
  driver := []
  params := p

/-- The machine right after reset, with the simulator's values for the OPEN parameters (entries 3 to 7). -/
def State.reset : State := State.resetWith simulatorParams

end Sys2Proof.Machine
end

