-- ==== Sys2Proof/Machine/Ops.lean ====
section
/-! DEFINITION. The named operations over memory, registers, stack and framebuffer, the entry into a fault, and the ways
an instruction ends. -/

namespace Sys2Proof.Machine

/-! ### Memory as data -/

/-- The listed byte at `a`, if there is one. -/
def Memory.find : Memory → Nat → Option Byte
  | [], _ => none
  | (k, b) :: m, a => if k = a then some b else Memory.find m a

/-- List `b` at `a`, keeping the addresses rising. -/
def Memory.insert : Memory → Nat → Byte → Memory
  | [], a, b => [(a, b)]
  | (k, c) :: m, a, b =>
    if a < k then (a, b) :: (k, c) :: m
    else if a = k then (a, b) :: m
    else (k, c) :: Memory.insert m a b

/-- List nothing at `a`. -/
def Memory.erase : Memory → Nat → Memory
  | [], _ => []
  | (k, c) :: m, a => if k = a then Memory.erase m a else (k, c) :: Memory.erase m a

/-- The byte at `a`, where `base` says what an unlisted address reads as. -/
def Memory.read (base : Nat → Byte) (m : Memory) (a : Nat) : Byte := (Memory.find m a).getD (base a)

/-- `mem[a] <- b`, keeping the canonical form. -/
def Memory.write (base : Nat → Byte) (m : Memory) (a : Nat) (b : Byte) : Memory :=
  if b = base a then Memory.erase m a else Memory.insert m a b

/-- `mem[a + k] <- bs[k]` for each k, ascending. -/
def Memory.writeBytes (base : Nat → Byte) : Memory → Nat → List Byte → Memory
  | m, _, [] => m
  | m, a, b :: bs => Memory.writeBytes base (Memory.write base m a b) (a + 1) bs

/-- The canonical form: rising addresses of the address space (20_memory.md R50), and no entry equal to what the address
would read as unlisted. -/
abbrev Memory.wf (base : Nat → Byte) (m : Memory) : Prop :=
  m.Pairwise (fun c d => c.1 < d.1) ∧ ∀ c ∈ m, c.1 ≤ 0xFFF ∧ c.2 ≠ base c.1

/-! ### Memory of the block -/

/-- `mem[a]` (20_memory.md R52), once the address has been checked. -/
def State.byteAt (s : State) (a : Nat) : Byte := Memory.read (unlistedByte s.params) s.mem a

/-- `mem[a + k] <- bs[k]`, ascending (20_memory.md R53, R58), once the addresses have been checked. -/
def State.storeBytes (s : State) (a : Nat) (bs : List Byte) : State :=
  { s with mem := Memory.writeBytes (unlistedByte s.params) s.mem a bs }

/-- The fault of `MemRead(a, 1)` (20_memory.md R52); the address is exact and never wraps. -/
def memReadFault (a : Nat) : Option Fault :=
  if 0xFFF < a then some (.outOfBoundsAccess a) else none

/-- The fault of `MemWrite(a, 1, v)` (20_memory.md R53). -/
def memWriteFault (a : Nat) : Option Fault :=
  if 0xFFF < a then some (.outOfBoundsAccess a)
  else if a ≤ 0x04F then some (.protectedWrite a)
  else none

/-- The check of 20_memory.md R60 on the `len` addresses from `a`: the fault of the lowest one that has a fault. -/
def firstFault (check : Nat → Option Fault) (a : Nat) : Nat → Option Fault
  | 0 => none
  | len + 1 =>
    match check a with
    | some f => some f
    | none => firstFault check (a + 1) len

/-- `Fetch(PC)` (20_memory.md R54). -/
def State.fetch (s : State) : Except Fault Word :=
  match firstFault memReadFault s.pc.toNat 2 with
  | some f => .error f
  | none => .ok (wordOfBytes (s.byteAt s.pc.toNat) (s.byteAt (s.pc.toNat + 1)))

/-! ### Registers -/

/-- `V[r]` (10_state.md R21). -/
def State.reg (s : State) (r : Reg) : Byte := s.v[r]

/-- `V[r] <- b` (10_state.md R21). -/
def State.setReg (s : State) (r : Reg) (b : Byte) : State := { s with v := s.v.set r b }

/-- `I <- w` (10_state.md R23). -/
def State.setI (s : State) (w : Word) : State := { s with i := w }

/-- `PC <- w` (10_state.md R24). -/
def State.setPc (s : State) (w : Word) : State := { s with pc := w }

/-- `DT <- b` (10_state.md R27). -/
def State.setDt (s : State) (b : Byte) : State := { s with dt := b }

/-- `ST <- b` (10_state.md R28). -/
def State.setSt (s : State) (b : Byte) : State := { s with st := b }

/-- The informative output `sound = (ST ≠ 0)` (60_exceptions.md R211). Nothing reads it. -/
def State.sound (s : State) : Bool := s.st != 0

/-! ### Return-address stack -/

/-- `Push(a)` (10_state.md R26). -/
def State.push (s : State) (a : Word) : Except Fault State :=
  if h : s.sp.val < 16 then
    .ok { s with stack := s.stack.set s.sp.val a, sp := ⟨s.sp.val + 1, by omega⟩ }
  else .error .stackOverflow

/-- `Pop()` (10_state.md R26). -/
def State.pop (s : State) : Except Fault (Word × State) :=
  if h : s.sp.val = 0 then .error .stackUnderflow
  else .ok (s.stack[s.sp.val - 1], { s with sp := ⟨s.sp.val - 1, by omega⟩ })

/-! ### Framebuffer and Repaint -/

/-- `fb[px mod FB_W][py mod FB_H]`: coordinates are reduced before indexing (10_state.md R30). -/
def Framebuffer.pixel (fb : Framebuffer) (px py : Nat) : Bool :=
  (fb[py % 32]'(Nat.mod_lt _ (by decide)))[px % 64]'(Nat.mod_lt _ (by decide))

/-- `fb[px mod FB_W][py mod FB_H] <- b` (10_state.md R30). -/
def Framebuffer.setPixel (fb : Framebuffer) (px py : Nat) (b : Bool) : Framebuffer :=
  fb.set (py % 32)
    ((fb[py % 32]'(Nat.mod_lt _ (by decide))).set (px % 64) b (Nat.mod_lt _ (by decide)))
    (Nat.mod_lt _ (by decide))

/-- What the display reads between transactions (10_state.md R30, R40). -/
def State.pixel (s : State) (px py : Nat) : Bool := Framebuffer.pixel s.fb px py

/-- The framebuffer becomes `fb`. -/
def State.setFb (s : State) (fb : Framebuffer) : State := { s with fb := fb }

/-- `emit Repaint` (10_state.md R40). -/
def State.emitRepaint (s : State) : State := { s with repaints := s.repaints + 1 }

/-! ### The random byte -/

/-- `Rand`: the next supplied byte, or a free one when none is left (44_random.md R150, entry 8). -/
def State.nextRandom (s : State) : Byte :=
  match s.rand with
  | b :: _ => b
  | [] => Config.freeRandomByte s.draws

/-- The state once that byte is consumed (44_random.md R150). -/
def State.consumeRandom (s : State) : State :=
  match s.rand with
  | _ :: bs => { s with rand := bs }
  | [] => { s with draws := s.draws + 1 }

/-! ### Faults and the ends of an instruction -/

/-- The code of an in-cycle fault kind (60_exceptions.md R200); code 16 is `LoadError.code`. -/
def Fault.code (f : Fault) : Nat :=
  match f with
  | .unknownOpcode => 1
  | .stackOverflow => 2
  | .stackUnderflow => 3
  | .outOfBoundsAccess _ => 4
  | .invalidKeyIndex _ => 5
  | .invalidGlyphDigit _ => 6
  | .protectedWrite _ => 7

/-- The code of what a load reports (60_exceptions.md R200). -/
def LoadError.code (e : LoadError) : Nat :=
  match e with
  | .romTooLarge _ => 16

/-- Fault entry (60_exceptions.md R203): the record is written and nothing else; PC keeps the instruction's address.
The block is halted from here until Reset: there is no return from a fault (R206). -/
def State.raise (s : State) (f : Fault) (opcode : Option Word) : State :=
  { s with fault := some { kind := f, pc := s.pc, opcode := opcode } }

/-- Instruction `i` raises `f` (60_exceptions.md R203). The opcode recorded is the word of `i`.
DEDUCED, safe: a decoded word is the encoding of its instruction (entry 13). -/
def raiseFrom (i : Instr) (f : Fault) (s : State) : Host.Outcome State Fault Refusal :=
  .next (s.raise f (some (encode i)))

/-- Outcome `next`: PC <- PC + 2 (30_encoding.md R78). -/
def endNext (s : State) : Host.Outcome State Fault Refusal := .next (s.setPc (s.pc + 2))

/-- Outcome `skip` (PC <- PC + 4) if `cond`, else `next` (30_encoding.md R78). -/
def endSkipIf (cond : Bool) (s : State) : Host.Outcome State Fault Refusal :=
  .next (s.setPc (s.pc + if cond then 4 else 2))

/-- Outcome `jump(t)`: PC <- t (30_encoding.md R78, R79). -/
def endJump (t : Word) (s : State) : Host.Outcome State Fault Refusal := .next (s.setPc t)

/-! ### Placing an instruction for the host -/

/-- `s` with the bytes of `w` where the next Cycle fetches. The fetch needs a running block, no transaction queued before
it, and a PC at which two bytes exist: where PC has none, it is set to 0x200. DESIGN CHOICE, safe: entry 15. -/
def State.placeWord (s : State) (w : Word) : State :=
  let pc : Word := if s.pc.toNat < 0xFFF then s.pc else 0x200
  { s with fault := none, driver := [], pc := pc }.storeBytes pc.toNat (bytesOfWord w)

end Sys2Proof.Machine
end

