-- ==== Sys2Proof/Machine/Operands.lean ====
section
/-! DEFINITION. The operand forms: arithmetic on exact numbers narrowed at the end, the addresses I + k, the register
list V0..Vx, the digits of LD B, and the cases where VF is an operand or a destination. -/

namespace Sys2Proof.Machine

/-- `u8(v)` (00_scope.md R7). -/
def u8 (v : Nat) : Byte := BitVec.ofNat 8 v

/-- `u16(v)` (00_scope.md R7). -/
def u16 (v : Nat) : Word := BitVec.ofNat 16 v

/-- `zext_16(nnn)` (30_encoding.md R72). -/
def zextAddr (nnn : BitVec 12) : Word := nnn.zeroExtend 16

/-- `u8(a + b)` (42_load_arithmetic.md R123, R128). -/
def sum8 (a b : Byte) : Byte := u8 (a.toNat + b.toNat)

/-- `u8(a - b + 256)` (42_load_arithmetic.md R129, R131). -/
def diff8 (a b : Byte) : Byte := u8 (a.toNat + 256 - b.toNat)

/-- `b >> 1` (42_load_arithmetic.md R130). -/
def half8 (b : Byte) : Byte := u8 (b.toNat / 2)

/-- `u8(b << 1)` (42_load_arithmetic.md R132). -/
def double8 (b : Byte) : Byte := u8 (b.toNat * 2)

/-- The three decimal digits of v: hundreds, tens, ones (43_memory_ops.md R142). -/
def bcdDigits (v : Byte) : List Byte := [u8 (v.toNat / 100), u8 (v.toNat / 10 % 10), u8 (v.toNat % 10)]

/-- The values of V0..Vx, V0 first (43_memory_ops.md R143). -/
def State.regsThrough (s : State) (x : Reg) : List Byte := s.v.toList.take (x.val + 1)

/-- `for k in 0..len-1: V[k] <- mem[a + k]`, V0 first (43_memory_ops.md R144). -/
def State.loadedRegs (s : State) (a : Nat) : Nat → Vector Byte 16
  | 0 => s.v
  | k + 1 => (State.loadedRegs s a k).setIfInBounds k (s.byteAt (a + k))

/-- `I + x + 1`, what LD [I] and LD Vx,[I] leave in I (43_memory_ops.md R143, R144). -/
def State.advancedI (s : State) (x : Reg) : Word := u16 (s.i.toNat + x.val + 1)

/-- VF is an operand or the destination of ADD, SUB or SUBN (42_load_arithmetic.md R121). -/
def vfAmong (x y : Reg) : Bool := x == vF || y == vF

/-- `VF_ALIAS_POLICY` (42_load_arithmetic.md R121): an aliasing case has no meaning under `refuse`. -/
def aliasGate (s : State) (aliases : Bool) (out : Host.Outcome State Fault Refusal) :
    Host.Outcome State Fault Refusal :=
  if aliases && s.params.vfAliasPolicy == .refuse then .refused .vfAlias else out

end Sys2Proof.Machine
end

