-- ==== Sys2Proof/Machine/Flags.lean ====
section
/-! DEFINITION. VF, the only flag: every computation of it, and the order of flag and result (42_load_arithmetic.md R120,
R121). The collision flag of DRW is computed with the blit, in Machine/Sprite.lean. -/

namespace Sys2Proof.Machine

/-- `cond ? 1 : 0`. -/
def flag (cond : Bool) : Byte := if cond then 1 else 0

/-- ADD's carry: 1 iff the exact sum exceeds 255 (42_load_arithmetic.md R128). -/
def carryFlag (a b : Byte) : Byte := flag (decide (255 < a.toNat + b.toNat))

/-- Not-borrow of a - b: 1 iff a is strictly greater than b (42_load_arithmetic.md R129, R131). -/
def notBorrowFlag (a b : Byte) : Byte := flag (decide (b.toNat < a.toNat))

/-- Bit 0, shifted out by SHR (42_load_arithmetic.md R130). -/
def lowBitFlag (b : Byte) : Byte := u8 (b.toNat % 2)

/-- Bit 7, shifted out by SHL (42_load_arithmetic.md R132). -/
def highBitFlag (b : Byte) : Byte := u8 (b.toNat / 128)

/-- VF is written first and the result second (42_load_arithmetic.md R121), so a result destined for VF is what VF
holds at the end. -/
def State.setFlagThenReg (s : State) (f : Byte) (d : Reg) (result : Byte) : State :=
  (s.setReg vF f).setReg d result

end Sys2Proof.Machine
end

