-- ==== Sys2Proof/Machine/Control.lean ====
section
/-! DEFINITION. Control: CLS, RET, JP, CALL, JP V0 (40_control.md). -/

namespace Sys2Proof.Machine

/-- 40_control.md R100. -/
def execCls (s : State) : Host.Outcome State Fault Refusal := endNext (s.setFb clearFb).emitRepaint

/-- 40_control.md R101. -/
def execRet (s : State) : Host.Outcome State Fault Refusal :=
  match s.pop with
  | .error f => raiseFrom .ret f s
  | .ok (t, s') => endJump t s'

/-- 40_control.md R102. -/
def execJp (nnn : BitVec 12) (s : State) : Host.Outcome State Fault Refusal := endJump (zextAddr nnn) s

/-- 40_control.md R103. -/
def execCall (nnn : BitVec 12) (s : State) : Host.Outcome State Fault Refusal :=
  match s.push (s.pc + 2) with
  | .error f => raiseFrom (.call nnn) f s
  | .ok s' => endJump (zextAddr nnn) s'

/-- 40_control.md R104. -/
def execJpV0 (nnn : BitVec 12) (s : State) : Host.Outcome State Fault Refusal :=
  endJump (u16 ((s.reg 0).toNat + nnn.toNat)) s

end Sys2Proof.Machine
end

