-- ==== Sys2Proof/Machine/Input.lean ====
section
/-! DEFINITION. Input: SKP and SKNP (46_input.md). -/

namespace Sys2Proof.Machine

/-- The level of the key Vx names, or the fault of an index above 15 (46_input.md R170, R171). -/
def State.keyOf (s : State) (x : Reg) : Except Fault Bool :=
  if h : (s.reg x).toNat < 16 then .ok (s.keys[(s.reg x).toNat])
  else .error (.invalidKeyIndex (s.reg x))

/-- 46_input.md R170. -/
def execSkp (x : Reg) (s : State) : Host.Outcome State Fault Refusal :=
  match s.keyOf x with
  | .error f => raiseFrom (.skp x) f s
  | .ok pressed => endSkipIf pressed s

/-- 46_input.md R171. -/
def execSknp (x : Reg) (s : State) : Host.Outcome State Fault Refusal :=
  match s.keyOf x with
  | .error f => raiseFrom (.sknp x) f s
  | .ok pressed => endSkipIf (!pressed) s

end Sys2Proof.Machine
end

