-- ==== Sys2Proof/Machine/LoadArith.lean ====
section
/-! DEFINITION. Load and arithmetic (42_load_arithmetic.md). Operands are read once, before anything is written (R121). -/

namespace Sys2Proof.Machine

/-- 42_load_arithmetic.md R122. -/
def execLdImm (x : Reg) (kk : Byte) (s : State) : Host.Outcome State Fault Refusal := endNext (s.setReg x kk)

/-- 42_load_arithmetic.md R123: no flag. -/
def execAddImm (x : Reg) (kk : Byte) (s : State) : Host.Outcome State Fault Refusal :=
  endNext (s.setReg x (sum8 (s.reg x) kk))

/-- 42_load_arithmetic.md R124. -/
def execLdReg (x y : Reg) (s : State) : Host.Outcome State Fault Refusal := endNext (s.setReg x (s.reg y))

/-- 42_load_arithmetic.md R125. -/
def execOrReg (x y : Reg) (s : State) : Host.Outcome State Fault Refusal :=
  endNext (s.setReg x (s.reg x ||| s.reg y))

/-- 42_load_arithmetic.md R126. -/
def execAndReg (x y : Reg) (s : State) : Host.Outcome State Fault Refusal :=
  endNext (s.setReg x (s.reg x &&& s.reg y))

/-- 42_load_arithmetic.md R127. -/
def execXorReg (x y : Reg) (s : State) : Host.Outcome State Fault Refusal :=
  endNext (s.setReg x (s.reg x ^^^ s.reg y))

/-- 42_load_arithmetic.md R128. -/
def execAddReg (x y : Reg) (s : State) : Host.Outcome State Fault Refusal :=
  aliasGate s (vfAmong x y)
    (endNext (s.setFlagThenReg (carryFlag (s.reg x) (s.reg y)) x (sum8 (s.reg x) (s.reg y))))

/-- 42_load_arithmetic.md R129. -/
def execSubReg (x y : Reg) (s : State) : Host.Outcome State Fault Refusal :=
  aliasGate s (vfAmong x y)
    (endNext (s.setFlagThenReg (notBorrowFlag (s.reg x) (s.reg y)) x (diff8 (s.reg x) (s.reg y))))

/-- 42_load_arithmetic.md R130: Vy is source and destination; x is ignored. -/
def execShrReg (_x y : Reg) (s : State) : Host.Outcome State Fault Refusal :=
  aliasGate s (y == vF) (endNext (s.setFlagThenReg (lowBitFlag (s.reg y)) y (half8 (s.reg y))))

/-- 42_load_arithmetic.md R131. -/
def execSubnReg (x y : Reg) (s : State) : Host.Outcome State Fault Refusal :=
  aliasGate s (vfAmong x y)
    (endNext (s.setFlagThenReg (notBorrowFlag (s.reg y) (s.reg x)) x (diff8 (s.reg y) (s.reg x))))

/-- 42_load_arithmetic.md R132: Vy is source and destination; x is ignored. -/
def execShlReg (_x y : Reg) (s : State) : Host.Outcome State Fault Refusal :=
  aliasGate s (y == vF) (endNext (s.setFlagThenReg (highBitFlag (s.reg y)) y (double8 (s.reg y))))

end Sys2Proof.Machine
end

