-- ==== Sys2Proof/Machine/MemoryOps.lean ====
section
/-! DEFINITION. Memory instructions: LD I, ADD I, LD B, LD [I], LD Vx,[I] (43_memory_ops.md). -/

namespace Sys2Proof.Machine

/-- 43_memory_ops.md R140. -/
def execLdI (nnn : BitVec 12) (s : State) : Host.Outcome State Fault Refusal := endNext (s.setI (zextAddr nnn))

/-- 43_memory_ops.md R141. -/
def execAddI (x : Reg) (s : State) : Host.Outcome State Fault Refusal :=
  let sum := s.i.toNat + (s.reg x).toNat
  if 0xFFFF < sum then raiseFrom (.addI x) (.outOfBoundsAccess sum) s else endNext (s.setI (u16 sum))

/-- 43_memory_ops.md R142. -/
def execLdB (x : Reg) (s : State) : Host.Outcome State Fault Refusal :=
  match firstFault memWriteFault s.i.toNat 3 with
  | some f => raiseFrom (.ldB x) f s
  | none => endNext (s.storeBytes s.i.toNat (bcdDigits (s.reg x)))

/-- 43_memory_ops.md R143. -/
def execStoreRegs (x : Reg) (s : State) : Host.Outcome State Fault Refusal :=
  match firstFault memWriteFault s.i.toNat (x.val + 1) with
  | some f => raiseFrom (.storeRegs x) f s
  | none => endNext ((s.storeBytes s.i.toNat (s.regsThrough x)).setI (s.advancedI x))

/-- 43_memory_ops.md R144. -/
def execLoadRegs (x : Reg) (s : State) : Host.Outcome State Fault Refusal :=
  match firstFault memReadFault s.i.toNat (x.val + 1) with
  | some f => raiseFrom (.loadRegs x) f s
  | none => endNext ({ s with v := s.loadedRegs s.i.toNat (x.val + 1) }.setI (s.advancedI x))

end Sys2Proof.Machine
end

