-- ==== Sys2Proof/Machine/Random.lean ====
section
/-! DEFINITION. Random: RND (44_random.md). -/

namespace Sys2Proof.Machine

/-- 44_random.md R151; one byte is consumed for every mask (R150). -/
def execRnd (x : Reg) (kk : Byte) (s : State) : Host.Outcome State Fault Refusal :=
  endNext (s.consumeRandom.setReg x (s.nextRandom &&& kk))

end Sys2Proof.Machine
end

