-- ==== Sys2Proof/Machine/Skip.lean ====
section
/-! DEFINITION. Conditional skip: SE and SNE (41_conditional_skip.md). -/

namespace Sys2Proof.Machine

/-- 41_conditional_skip.md R110. -/
def execSeImm (x : Reg) (kk : Byte) (s : State) : Host.Outcome State Fault Refusal :=
  endSkipIf (s.reg x == kk) s

/-- 41_conditional_skip.md R111. -/
def execSneImm (x : Reg) (kk : Byte) (s : State) : Host.Outcome State Fault Refusal :=
  endSkipIf (s.reg x != kk) s

/-- 41_conditional_skip.md R112. -/
def execSeReg (x y : Reg) (s : State) : Host.Outcome State Fault Refusal :=
  endSkipIf (s.reg x == s.reg y) s

/-- 41_conditional_skip.md R113. -/
def execSneReg (x y : Reg) (s : State) : Host.Outcome State Fault Refusal :=
  endSkipIf (s.reg x != s.reg y) s

end Sys2Proof.Machine
end

