-- ==== Sys2Proof/Machine/Sprite.lean ====
section
/-! DEFINITION. Sprite draw: DRW and the XOR-blit compositor with collision detection (45_sprite_draw.md). -/

namespace Sys2Proof.Machine

/-- The framebuffer and the collision flag while a sprite is drawn. -/
abbrev Canvas := Framebuffer × Bool

/-- The inner body of R161's loops: column offset `b` of row `r`, where bit 7 of the row byte is the leftmost pixel
(45_sprite_draw.md R160). -/
def blitBit (cx cy r : Nat) (row : Byte) (b : Nat) (c : Canvas) : Canvas :=
  let bit := row.getLsbD (7 - b)
  let old := Framebuffer.pixel c.1 (cx + b) (cy + r)
  (Framebuffer.setPixel c.1 (cx + b) (cy + r) (old ^^ bit), c.2 || (old && bit))

/-- The first `len` columns of row `r`, leftmost first (45_sprite_draw.md R161). -/
def blitRow (cx cy r : Nat) (row : Byte) (c : Canvas) : Nat → Canvas
  | 0 => c
  | b + 1 => blitBit cx cy r row b (blitRow cx cy r row c b)

/-- The first `len` rows, in ascending order, row r being the byte at I + r (45_sprite_draw.md R161). -/
def State.blitRows (s : State) (cx cy : Nat) (c : Canvas) : Nat → Canvas
  | 0 => c
  | r + 1 => blitRow cx cy r (s.byteAt (s.i.toNat + r)) (State.blitRows s cx cy c r) 8

/-- 45_sprite_draw.md R161: the coordinates are read before VF is reset. -/
def execDrw (x y : Reg) (n : Nat) (s : State) : Host.Outcome State Fault Refusal :=
  match firstFault memReadFault s.i.toNat n with
  | some f => raiseFrom (.drw x y n) f s
  | none =>
    let c := s.blitRows (s.reg x).toNat (s.reg y).toNat (s.fb, false) n
    endNext ((s.setFb c.1).setReg vF (flag c.2)).emitRepaint

end Sys2Proof.Machine
end

