-- ==== Sys2Proof/Machine/TimerGlyph.lean ====
section
/-! DEFINITION. Timer and glyph instructions (47_timers.md). None of them decrements a timer. -/

namespace Sys2Proof.Machine

/-- 47_timers.md R180. -/
def execLdVxDt (x : Reg) (s : State) : Host.Outcome State Fault Refusal := endNext (s.setReg x s.dt)

/-- 47_timers.md R181. -/
def execLdDtVx (x : Reg) (s : State) : Host.Outcome State Fault Refusal := endNext (s.setDt (s.reg x))

/-- 47_timers.md R182. -/
def execLdStVx (x : Reg) (s : State) : Host.Outcome State Fault Refusal := endNext (s.setSt (s.reg x))

/-- 47_timers.md R183: the glyph of digit d is at 5·d. -/
def execLdF (x : Reg) (s : State) : Host.Outcome State Fault Refusal :=
  let d := s.reg x
  if 0xF < d.toNat then raiseFrom (.ldF x) (.invalidGlyphDigit d) s else endNext (s.setI (u16 (5 * d.toNat)))

end Sys2Proof.Machine
end

