-- ==== Sys2Proof/Machine/Cycle.lean ====
section
/-! DEFINITION. The transactions of 10_state.md R40: Cycle, Tick, Reset, LoadRom and a change of the keypad. -/

namespace Sys2Proof.Machine

/-- Fetch, decode and execute one instruction; each of the three may raise its fault (30_encoding.md R77,
60_exceptions.md R202). -/
def runInstruction (s : State) : Host.Outcome State Fault Refusal :=
  match s.fetch with
  | .error f => .next (s.raise f none)
  | .ok w =>
    match decodeWord w with
    | .error _ => .next (s.raise .unknownOpcode (some w))
    | .ok i => exec i s

/-- `Cycle(Keys, Rand)` (30_encoding.md R77): nothing when halted, else one instruction. A Cycle that begins an
instruction ends the time in which LoadRom is allowed (70_reset_and_hazards.md R234). -/
def cycle (s : State) : Host.Outcome State Fault Refusal :=
  match s.fault with
  | some _ => .next s
  | none => runInstruction { s with started := true }

/-- One timer's decrement: it stops at 0 (60_exceptions.md R209). -/
def decrement (b : Byte) : Byte := if 0 < b.toNat then b - 1 else b

/-- `Tick()` (60_exceptions.md R209): it applies whether or not the block is halted. -/
def tick (s : State) : State := { s with dt := decrement s.dt, st := decrement s.st }

/-- `Reset()` (70_reset_and_hazards.md R230). It writes what R230 lists; the stack entries, which R230 does not write,
the inputs, the outputs and the queue stay (entry 14). -/
def resetBlock (s : State) : State :=
  { s with
    mem := s.params.initMem
    v := s.params.initV
    i := s.params.initI
    pc := 0x200
    sp := 0
    dt := s.params.initDt
    st := s.params.initSt
    fb := s.params.initFb
    fault := none
    started := false }

/-- `LoadRom(bytes)` (70_reset_and_hazards.md R232, R234). -/
def loadRom (bytes : List Byte) (s : State) : Host.Outcome State Fault Refusal :=
  if s.started then .refused .loadRomAfterCycle
  else if 3584 < bytes.length then .next { s with loadReport := some (.romTooLarge bytes.length) }
  else .next ({ s with loadReport := none }.storeBytes 0x200 bytes)

/-- The input collaborator changes `Keys` (10_state.md R31, 70_reset_and_hazards.md R235). -/
def setKeys (keys : Keypad) (s : State) : State := { s with keys := keys }

/-- One transaction, whole (70_reset_and_hazards.md R235). -/
def perform (t : Transaction) (s : State) : Host.Outcome State Fault Refusal :=
  match t with
  | .cycle => cycle s
  | .tick => .next (tick s)
  | .reset => .next (resetBlock s)
  | .loadRom bytes => loadRom bytes s
  | .setKeys keys => .next (setKeys keys s)

/-- The oldest queued transaction, or a Cycle when none is queued (70_reset_and_hazards.md R235).
DESIGN CHOICE, safe: entry 10. -/
def performNext (s : State) : Host.Outcome State Fault Refusal :=
  match s.driver with
  | [] => cycle s
  | t :: rest => perform t { s with driver := rest }

end Sys2Proof.Machine
end

