-- ==== Sys2Proof/Machine/Step.lean ====
section
/-! DEFINITION. One step: the next transaction. And where the host places an instruction. -/

namespace Sys2Proof.Machine

/-- One transaction of the block (70_reset_and_hazards.md R235). -/
def step : State → Host.Outcome State Fault Refusal := performNext

/-- `s` with the instruction whose bits are `w` (those above `nbits` are 0) where the next Cycle fetches. -/
def State.withFetchWord (s : State) (nbits w : Nat) : State :=
  s.placeWord (BitVec.ofNat 16 (w % 2 ^ nbits))

end Sys2Proof.Machine
end

