-- ==== Sys2Proof/Safety.lean ====
section
/-! DEFINITION. The terms claims are stated in: the parts of a state and frames over them, the invariants, the pixels a
sprite sets, and the end of a run. -/

namespace Sys2Proof.Safety

open Sys2Proof.Machine

/-- The pieces of a state a frame speaks of. -/
inductive Part where
  | regs | i | pc | stack | sp | dt | st | mem | fb | fault
  | keys | rand | draws | repaints | loadReport | started | driver | params
  deriving DecidableEq, Repr

/-- Part `p` reads the same in `s` and `t`. Memory is compared byte by byte, registers one by one. -/
def Same (p : Part) (s t : State) : Prop :=
  match p with
  | .regs => ∀ r, t.reg r = s.reg r
  | .i => t.i = s.i
  | .pc => t.pc = s.pc
  | .stack => t.stack = s.stack
  | .sp => t.sp = s.sp
  | .dt => t.dt = s.dt
  | .st => t.st = s.st
  | .mem => ∀ a, t.byteAt a = s.byteAt a
  | .fb => t.fb = s.fb
  | .fault => t.fault = s.fault
  | .keys => t.keys = s.keys
  | .rand => t.rand = s.rand
  | .draws => t.draws = s.draws
  | .repaints => t.repaints = s.repaints
  | .loadReport => t.loadReport = s.loadReport
  | .started => t.started = s.started
  | .driver => t.driver = s.driver
  | .params => t.params = s.params

/-- Every part of the state but those listed is the same in `t` as in `s`. -/
def Frame (touched : List Part) (s t : State) : Prop := ∀ p, p ∉ touched → Same p s t

/-- Every general register but those listed holds in `t` what it held in `s`. -/
def RegsBut (written : List Reg) (s t : State) : Prop := ∀ r, r ∉ written → t.reg r = s.reg r

/-- Every byte of memory outside the `len` bytes from `a` reads in `t` as it read in `s`. -/
def MemoryBut (a len : Nat) (s t : State) : Prop := ∀ p, p < a ∨ a + len ≤ p → t.byteAt p = s.byteAt p

/-- `i` raises `f` at `s`: the next state records it with the pc and the word of `i` (60_exceptions.md R200, R203). Nothing
is said of the rest of the halted state (R204). -/
def Raises (i : Instr) (s : State) (f : Fault) : Prop :=
  ∃ t, exec i s = .next t ∧ t.fault = some { kind := f, pc := s.pc, opcode := some (encode i) }

/-- An aliasing case runs under the block's policy: it is none, or the policy is snapshot, the default
(42_load_arithmetic.md R121). -/
def AliasRuns (aliases : Prop) (s : State) : Prop := ¬ aliases ∨ s.params.vfAliasPolicy = .snapshot

/-- `i` is one of the forms in which VF is an operand or the destination of an instruction that also writes a flag: ADD,
SUB or SUBN with x = F or y = F, SHR or SHL with y = F (42_load_arithmetic.md R121). -/
def AliasForm (i : Instr) : Prop :=
  match i with
  | .addReg x y | .subReg x y | .subnReg x y => x = vF ∨ y = vF
  | .shrReg _ y | .shlReg _ y => y = vF
  | .cls | .ret | .jp _ | .call _ | .jpV0 _ | .seImm _ _ | .sneImm _ _ | .seReg _ _ | .sneReg _ _ | .ldImm _ _
  | .addImm _ _ | .ldReg _ _ | .orReg _ _ | .andReg _ _ | .xorReg _ _ | .ldI _ | .addI _ | .ldB _ | .storeRegs _
  | .loadRegs _ | .rnd _ _ | .drw _ _ _ | .skp _ | .sknp _ | .ldVxDt _ | .ldDtVx _ | .ldStVx _ | .ldF _ => False

/-- The next transaction of `s` is a Cycle, queued or because none is queued, and `rest` stays queued after it
(70_reset_and_hazards.md R235; the queue is the model's, entry 10). -/
def CycleNext (s : State) (rest : List Transaction) : Prop :=
  (s.driver = [] ∧ rest = []) ∨ s.driver = .cycle :: rest

/-- `i` is one of the six instructions that write VF as a side effect (10_state.md R22). -/
def WritesFlag (i : Instr) : Bool :=
  match i with
  | .addReg _ _ | .subReg _ _ | .shrReg _ _ | .subnReg _ _ | .shlReg _ _ | .drw _ _ _ => true
  | .cls | .ret | .jp _ | .call _ | .jpV0 _ | .seImm _ _ | .sneImm _ _ | .seReg _ _ | .sneReg _ _ | .ldImm _ _
  | .addImm _ _ | .ldReg _ _ | .orReg _ _ | .andReg _ _ | .xorReg _ _ | .ldI _ | .addI _ | .ldB _ | .storeRegs _
  | .loadRegs _ | .rnd _ _ | .skp _ | .sknp _ | .ldVxDt _ | .ldDtVx _ | .ldStVx _ | .ldF _ => false

/-- The registers `i` names as its ordinary destination (10_state.md R22, 42_load_arithmetic.md R130 and R132 for SHR and
SHL, 43_memory_ops.md R144 for LD Vx,[I]). -/
def Destination (i : Instr) (r : Reg) : Prop :=
  match i with
  | .ldImm x _ | .addImm x _ | .ldReg x _ | .orReg x _ | .andReg x _ | .xorReg x _ | .addReg x _ | .subReg x _
  | .subnReg x _ | .rnd x _ | .ldVxDt x => r = x
  | .shrReg _ y | .shlReg _ y => r = y
  | .loadRegs x => r.val ≤ x.val
  | .cls | .ret | .jp _ | .call _ | .jpV0 _ | .seImm _ _ | .sneImm _ _ | .seReg _ _ | .sneReg _ _ | .ldI _ | .addI _
  | .ldB _ | .storeRegs _ | .drw _ _ _ | .skp _ | .sknp _ | .ldDtVx _ | .ldStVx _ | .ldF _ => False

/-- The faults `i` can raise, besides the fetch fault and UnknownOpcode (60_exceptions.md R201). -/
def MayRaise (i : Instr) (f : Fault) : Prop :=
  match i with
  | .ret => f = .stackUnderflow
  | .call _ => f = .stackOverflow
  | .addI _ => ∃ a, 0xFFFF < a ∧ f = .outOfBoundsAccess a
  | .ldB _ | .storeRegs _ => (∃ a, 0xFFF < a ∧ f = .outOfBoundsAccess a) ∨ ∃ a, a ≤ 0x04F ∧ f = .protectedWrite a
  | .loadRegs _ | .drw _ _ _ => ∃ a, 0xFFF < a ∧ f = .outOfBoundsAccess a
  | .skp _ | .sknp _ => ∃ k : Byte, 0x0F < k.toNat ∧ f = .invalidKeyIndex k
  | .ldF _ => ∃ d : Byte, 0x0F < d.toNat ∧ f = .invalidGlyphDigit d
  | .cls | .jp _ | .jpV0 _ | .seImm _ _ | .sneImm _ _ | .seReg _ _ | .sneReg _ _ | .ldImm _ _ | .addImm _ _
  | .ldReg _ _ | .orReg _ _ | .andReg _ _ | .xorReg _ _ | .addReg _ _ | .subReg _ _ | .shrReg _ _ | .subnReg _ _
  | .shlReg _ _ | .ldI _ | .rnd _ _ | .ldVxDt _ | .ldDtVx _ | .ldStVx _ => False

/-- The sprite of `n` rows at `I` has a set bit that lands on pixel (px, py) when drawn at (cx, cy): row r, column offset
b, bit 7 - b of the byte at I + r (45_sprite_draw.md R160). -/
def SpriteSets (s : State) (cx cy n px py : Nat) : Prop :=
  ∃ r < n, ∃ b < 8,
    (cx + b) % 64 = px ∧ (cy + r) % 32 = py ∧ (s.byteAt (s.i.toNat + r)).getLsbD (7 - b) = true

/-- The memory of parameters `p`: INIT_MEM is canonical and lies in 0x050–0xFFF (00_scope.md R5). -/
def ParamsWf (p : Params) : Prop :=
  Memory.wf (unlistedByte p) p.initMem ∧ ∀ c ∈ p.initMem, 0x04F < c.1

/-- Memory is in canonical form, nothing is listed over the glyph table (20_memory.md R51, R53), and the parameters are
well-formed. -/
def MemoryInv (s : State) : Prop :=
  Memory.wf (unlistedByte s.params) s.mem ∧ (∀ c ∈ s.mem, 0x04F < c.1) ∧ ParamsWf s.params

/-- PC is at most 0x10FE, and every live stack entry is a return address, at most 0x1000 (10_state.md R24,
40_control.md R103). -/
def PcInv (s : State) : Prop :=
  s.pc.toNat ≤ 0x10FE ∧ ∀ k : Fin 16, k.val < s.sp.val → s.stack[k].toNat ≤ 0x1000

/-- The word at PC is `1nnn` with nnn = PC (70_reset_and_hazards.md R239 (b)). -/
def SelfJump (s : State) : Prop := ∃ nnn : BitVec 12, s.fetch = .ok (encode (.jp nnn)) ∧ zextAddr nnn = s.pc

/-- The end of a run as seen in a state: a fault, or a self-jump (70_reset_and_hazards.md R239 (a), (b)). The driver
stopping, (c), is a run with no further step. -/
def EndOfRun (s : State) : Prop := s.fault ≠ none ∨ SelfJump s

/-- A run that has not gone wrong: no fault is recorded (60_exceptions.md R204). -/
def Running (s : State) : Prop := s.fault = none

end Sys2Proof.Safety
end

