-- ==== Sys2Proof/Certificates/Slice0/Obligations.lean ====
section
/-! DEFINITION. What is claimed of the block: one Prop per obligation of OBLIGATIONS.json. -/

open Sys2Proof Sys2Proof.Machine Sys2Proof.Safety

/-! ### Encoding -/

/-- Every well-formed instruction decodes back from its word and from its bytes, whatever bytes follow
(30_encoding.md R70, R71, R74). -/
def Obligations.DecodeUndoesEncode : Prop :=
  ∀ i : Instr, i.wf = true →
    decodeWord (encode i) = .ok i ∧ ∀ rest, decode (encodeBytes i ++ rest) = .ok (i, rest)

/-- A legal word is the encoding of the instruction it decodes to: no bit of it is dropped (30_encoding.md R71, R76). -/
def Obligations.EncodeUndoesDecode : Prop :=
  ∀ (w : Word) (i : Instr), decodeWord w = .ok i → encode i = w ∧ i.wf = true

/-- A word decodes to an instruction of a row of the opcode table iff it matches that row's mask and match
(30_encoding.md R74). -/
def Obligations.WordSelectsItsTableRow : Prop :=
  ∀ (w : Word) (i : Instr),
    (∃ j, decodeWord w = .ok j ∧ tableRow j = tableRow i) ↔ w &&& (tableRow i).1 = (tableRow i).2

/-- The illegal words are exactly those of R75's table, and executing one raises UnknownOpcode with the PC and the word,
whether the Cycle was queued or not (30_encoding.md R75; the queue is the model's, entry 10). -/
def Obligations.IllegalWordsRaiseUnknownOpcode : Prop :=
  (∀ w : Word, (∃ e, decodeWord w = .error e) ↔
    (w.toNat / 4096 = 0x0 ∧ w ≠ 0x00E0 ∧ w ≠ 0x00EE) ∨
    (w.toNat / 4096 = 0x5 ∧ w.toNat % 16 ≠ 0) ∨
    (w.toNat / 4096 = 0x8 ∧ w.toNat % 16 ∈ [0x8, 0x9, 0xA, 0xB, 0xC, 0xD, 0xF]) ∨
    (w.toNat / 4096 = 0x9 ∧ w.toNat % 16 ≠ 0) ∨
    (w.toNat / 4096 = 0xE ∧ w.toNat % 256 ∉ [0x9E, 0xA1]) ∨
    (w.toNat / 4096 = 0xF ∧ w.toNat % 256 ∉ [0x07, 0x15, 0x18, 0x1E, 0x29, 0x33, 0x55, 0x65])) ∧
  ∀ (s : State) (rest : List Transaction) (w : Word) (e : DecodeError),
    CycleNext s rest → s.fault = none → s.fetch = .ok w → decodeWord w = .error e →
      ∃ t, step s = .next t ∧ t.fault = some { kind := .unknownOpcode, pc := s.pc, opcode := some w }

/-- Words written out from the patterns of 30_encoding.md R74, one or more of each family, and illegal neighbours. -/
def Obligations.SampleWordsDecode : Prop :=
  decodeWord 0x00E0 = .ok .cls ∧ decodeWord 0x00EE = .ok .ret ∧ decodeWord 0x1ABC = .ok (.jp 0xABC) ∧
  decodeWord 0x3342 = .ok (.seImm 3 0x42) ∧ decodeWord 0x9120 = .ok (.sneReg 1 2) ∧
  decodeWord 0x6A2B = .ok (.ldImm 10 0x2B) ∧ decodeWord 0x8AB6 = .ok (.shrReg 10 11) ∧
  decodeWord 0xA300 = .ok (.ldI 0x300) ∧ decodeWord 0xF155 = .ok (.storeRegs 1) ∧
  decodeWord 0xC30F = .ok (.rnd 3 0x0F) ∧ decodeWord 0xD12F = .ok (.drw 1 2 15) ∧
  decodeWord 0xE59E = .ok (.skp 5) ∧ decodeWord 0xF407 = .ok (.ldVxDt 4) ∧ decodeWord 0xF029 = .ok (.ldF 0) ∧
  decodeWord 0x01E0 = .error (.unknownOpcode 0x01E0) ∧ decodeWord 0x5121 = .error (.unknownOpcode 0x5121) ∧
  decodeWord 0xF00A = .error (.unknownOpcode 0xF00A)

/-! ### The cycle and the other transactions -/

/-- Fetch reads two bytes, the high one at PC, iff PC ≤ 0xFFE; else it faults at the first address above 0xFFF
(20_memory.md R54). -/
def Obligations.FetchIsTwoBytesBigEndian : Prop :=
  ∀ s : State,
    (s.pc.toNat ≤ 0xFFE → ∃ w, s.fetch = .ok w ∧
      w.toNat = (s.byteAt s.pc.toNat).toNat * 256 + (s.byteAt (s.pc.toNat + 1)).toNat) ∧
    (s.pc.toNat = 0xFFF → s.fetch = .error (.outOfBoundsAccess 0x1000)) ∧
    (0xFFF < s.pc.toNat → s.fetch = .error (.outOfBoundsAccess s.pc.toNat))

/-- Where the next transaction of a running block is a Cycle, queued or because none is queued, the step is the fetch
fault, else UnknownOpcode, else the decoded instruction, at the state that remembers a Cycle has begun (30_encoding.md
R77, 60_exceptions.md R202; the queue is the model's, entry 10, and so is `started`, entry 11). -/
def Obligations.CycleFetchesDecodesExecutes : Prop :=
  ∀ (s : State) (rest : List Transaction), CycleNext s rest → s.fault = none →
    (∀ f, s.fetch = .error f → ∃ t, step s = .next t ∧
      t.fault = some { kind := f, pc := s.pc, opcode := none }) ∧
    (∀ w e, s.fetch = .ok w → decodeWord w = .error e → ∃ t, step s = .next t ∧
      t.fault = some { kind := .unknownOpcode, pc := s.pc, opcode := some w }) ∧
    (∀ w i, s.fetch = .ok w → decodeWord w = .ok i →
      step s = exec i { s with started := true, driver := rest })

/-- Where the bytes at PC decode to an instruction, the step of a running block is `exec` of it; around it the step only
takes a queued Cycle off the queue and remembers that a Cycle has begun (30_encoding.md R77, 20_memory.md R54; the queue
and `started` are the model's, entries 10 and 11). -/
def Obligations.StepRunsTheDecodedInstruction : Prop :=
  ∀ (s : State) (i : Instr), s.fault = none → s.pc.toNat ≤ 0xFFE →
    decode [s.byteAt s.pc.toNat, s.byteAt (s.pc.toNat + 1)] = .ok (i, []) →
      (s.driver = [] → step s = exec i { s with started := true }) ∧
      (∀ rest, s.driver = .cycle :: rest → step s = exec i { s with started := true, driver := rest })

/-- A Cycle of a halted block changes nothing, consumes no random byte and emits no Repaint; a Tick still applies
(60_exceptions.md R205). That an empty queue is a Cycle, and that a queued one is taken off, is the model's choice
(entry 10). -/
def Obligations.HaltedBlockExecutesNothing : Prop :=
  ∀ s : State, s.fault ≠ none →
    (s.driver = [] → step s = .next s) ∧
    (∀ rest, s.driver = .cycle :: rest → step s = .next { s with driver := rest }) ∧
    (∀ rest, s.driver = .tick :: rest → ∃ t, step s = .next t ∧ t.fault = s.fault ∧
      t.dt.toNat = s.dt.toNat - 1 ∧ t.st.toNat = s.st.toNat - 1)

/-- Tick decrements each timer that is not 0 by one, leaves 0 at 0, and changes nothing else, halted or not
(60_exceptions.md R209). The queue it is taken off is the model's choice (entry 10). -/
def Obligations.TickDecrementsBothTimers : Prop :=
  ∀ (s : State) (rest : List Transaction), s.driver = .tick :: rest →
    ∃ t, step s = .next t ∧
      (0 < s.dt.toNat → t.dt.toNat = s.dt.toNat - 1) ∧ (s.dt.toNat = 0 → t.dt = s.dt) ∧
      (0 < s.st.toNat → t.st.toNat = s.st.toNat - 1) ∧ (s.st.toNat = 0 → t.st = s.st) ∧
      t.driver = rest ∧ Frame [.dt, .st, .driver] s t

/-- Reset initialises the block from its parameters, whatever they are, running or halted; of the stack entries nothing is
said (70_reset_and_hazards.md R230, 10_state.md R34). That the keypad, the random supply, the outputs and the parameters
survive it is the model's choice (entry 14), and so is the queue it is taken off (entry 10). -/
def Obligations.ResetInitialisesTheBlock : Prop :=
  ∀ (s : State) (rest : List Transaction), s.driver = .reset :: rest → ParamsWf s.params →
    ∃ t, step s = .next t ∧
      (∀ a (h : a < 80), t.byteAt a = s.params.glyphTable[a]) ∧
      (∀ a, 0x50 ≤ a → t.byteAt a = (Memory.find s.params.initMem a).getD 0) ∧
      (∀ r : Reg, t.reg r = s.params.initV[r]) ∧ t.i = s.params.initI ∧ t.pc = 0x200 ∧ t.sp = 0 ∧
      t.dt = s.params.initDt ∧ t.st = s.params.initSt ∧ t.fb = s.params.initFb ∧ t.fault = none ∧
      t.driver = rest ∧
      Frame [.mem, .regs, .i, .pc, .stack, .sp, .dt, .st, .fb, .fault, .started, .driver] s t

/-- After reset, for every value of the OPEN parameters: PC is 0x200, the stack is empty, the glyph table is in place, the
rest holds the parameters' values, no fault is recorded (10_state.md R34). -/
def Obligations.ResetValues : Prop :=
  ∀ p : Params, ParamsWf p →
    (State.resetWith p).pc = 0x200 ∧ (State.resetWith p).sp = 0 ∧ (State.resetWith p).fault = none ∧
    (∀ r : Reg, (State.resetWith p).reg r = p.initV[r]) ∧ (State.resetWith p).i = p.initI ∧
    (State.resetWith p).dt = p.initDt ∧ (State.resetWith p).st = p.initSt ∧ (State.resetWith p).fb = p.initFb ∧
    (∀ a (h : a < 80), (State.resetWith p).byteAt a = p.glyphTable[a]) ∧
    (∀ a, 0x50 ≤ a → (State.resetWith p).byteAt a = (Memory.find p.initMem a).getD 0)

/-- LoadRom of at most 3584 bytes puts them at 0x200 and leaves every other byte; a longer ROM is reported as
RomTooLarge, code 16, and leaves memory unchanged (70_reset_and_hazards.md R232, 60_exceptions.md R200). The model's own
choices here: `started` for 'before the first Cycle' (entry 11), `loadReport`, none after an accepted load (entry 12), and
the queue (entry 10). -/
def Obligations.LoadRomCopiesOrReports : Prop :=
  ∀ (s : State) (bytes : List Byte) (rest : List Transaction),
    s.driver = .loadRom bytes :: rest → s.started = false →
      (bytes.length ≤ 3584 → ∃ t, step s = .next t ∧
        (∀ k (h : k < bytes.length), t.byteAt (0x200 + k) = bytes[k]) ∧ MemoryBut 0x200 bytes.length s t ∧
        t.loadReport = none ∧ t.driver = rest ∧ Frame [.mem, .loadReport, .driver] s t) ∧
      (3584 < bytes.length → ∃ t, step s = .next t ∧
        (∃ e, t.loadReport = some e ∧ e = .romTooLarge bytes.length ∧ e.code = 16) ∧ t.driver = rest ∧
        Frame [.loadReport, .driver] s t)

/-- LoadRom is refused once a Cycle has begun since Reset; a Cycle of a running block begins that time and Reset, which is
possible at any time, ends it (70_reset_and_hazards.md R234; `started` is the model's, entry 11, and so is the queue,
entry 10). -/
def Obligations.LoadRomOnlyBeforeTheFirstCycle : Prop :=
  ∀ s : State,
    (∀ bytes rest, s.driver = .loadRom bytes :: rest → s.started = true →
      step s = .refused .loadRomAfterCycle) ∧
    (∀ t rest, CycleNext s rest → s.fault = none → step s = .next t → t.started = true) ∧
    (∀ rest, s.driver = .reset :: rest → ∃ t, step s = .next t ∧ t.started = false)

/-- The oldest queued transaction is performed whole and the others stay queued in their order; a change of the keypad
changes only `Keys` (70_reset_and_hazards.md R235, 10_state.md R31). -/
def Obligations.TransactionsRunInOrder : Prop :=
  ∀ (s : State) (x : Transaction) (rest : List Transaction), s.driver = x :: rest →
    step s = perform x { s with driver := rest } ∧
    (∀ k, x = .setKeys k → ∃ t, step s = .next t ∧ t.keys = k ∧ t.driver = rest ∧ Frame [.keys, .driver] s t) ∧
    (∀ t, step s = .next t → t.driver = rest)

/-! ### Control -/

/-- CLS unsets every pixel, emits Repaint once (counted in the model's own field, entry 12) and leaves everything else, VF
included (40_control.md R100). -/
def Obligations.ClsClearsTheScreen : Prop :=
  ∀ s : State, ∃ t, exec .cls s = .next t ∧ (∀ px py, t.pixel px py = false) ∧
    t.repaints = s.repaints + 1 ∧ t.pc = s.pc + 2 ∧ Frame [.fb, .repaints, .pc] s t

/-- RET pops the top of the stack into PC; on an empty stack it raises StackUnderflow (40_control.md R101). -/
def Obligations.RetPopsThePc : Prop :=
  ∀ s : State,
    (∀ k : Fin 16, s.sp.val = k.val + 1 → ∃ t, exec .ret s = .next t ∧
      t.pc = s.stack[k] ∧ t.sp.val = k.val ∧ Frame [.pc, .sp] s t) ∧
    (s.sp = 0 → Raises .ret s .stackUnderflow)

/-- CALL pushes PC + 2 and goes to nnn; with 16 live entries it raises StackOverflow (40_control.md R103). -/
def Obligations.CallPushesTheReturnAddress : Prop :=
  ∀ (nnn : BitVec 12) (s : State),
    (∀ k : Fin 16, s.sp.val = k.val → ∃ t, exec (.call nnn) s = .next t ∧
      t.stack[k] = s.pc + 2 ∧ (∀ j : Fin 16, j ≠ k → t.stack[j] = s.stack[j]) ∧ t.sp.val = k.val + 1 ∧
      t.pc.toNat = nnn.toNat ∧ Frame [.pc, .sp, .stack] s t) ∧
    (s.sp = 16 → Raises (.call nnn) s .stackOverflow)

/-- JP goes to nnn, for every nnn; JP V0, nnn goes to the exact sum of V0 and nnn (40_control.md R102, R104). -/
def Obligations.JumpsGoToTheirAddress : Prop :=
  ∀ (nnn : BitVec 12) (s : State),
    (∃ t, exec (.jp nnn) s = .next t ∧ t.pc.toNat = nnn.toNat ∧ Frame [.pc] s t) ∧
    (∃ t, exec (.jpV0 nnn) s = .next t ∧ t.pc.toNat = (s.reg 0).toNat + nnn.toNat ∧ Frame [.pc] s t)

/-- RET after CALL lands behind the CALL and leaves the live stack as it was (40_control.md R101, R103). -/
def Obligations.RetUndoesCall : Prop :=
  ∀ (nnn : BitVec 12) (s : State), s.sp.val < 16 →
    ∃ t u, exec (.call nnn) s = .next t ∧ exec .ret t = .next u ∧
      u.pc = s.pc + 2 ∧ u.sp = s.sp ∧ (∀ k : Fin 16, k.val < s.sp.val → u.stack[k] = s.stack[k]) ∧
      Frame [.pc, .stack] s u

/-! ### Conditional skip -/

/-- SE and SNE with an immediate: PC + 4 iff Vx equals, or does not equal, kk; else PC + 2
(41_conditional_skip.md R110, R111). -/
def Obligations.SkipsOnImmediate : Prop :=
  ∀ (x : Reg) (kk : Byte) (s : State),
    (∃ t, exec (.seImm x kk) s = .next t ∧
      t.pc = s.pc + (if s.reg x = kk then 4 else 2) ∧ Frame [.pc] s t) ∧
    (∃ t, exec (.sneImm x kk) s = .next t ∧
      t.pc = s.pc + (if s.reg x = kk then 2 else 4) ∧ Frame [.pc] s t)

/-- SE and SNE between registers: PC + 4 iff Vx equals, or does not equal, Vy; else PC + 2
(41_conditional_skip.md R112, R113). -/
def Obligations.SkipsOnRegisters : Prop :=
  ∀ (x y : Reg) (s : State),
    (∃ t, exec (.seReg x y) s = .next t ∧
      t.pc = s.pc + (if s.reg x = s.reg y then 4 else 2) ∧ Frame [.pc] s t) ∧
    (∃ t, exec (.sneReg x y) s = .next t ∧
      t.pc = s.pc + (if s.reg x = s.reg y then 2 else 4) ∧ Frame [.pc] s t)

/-! ### Load and arithmetic -/

/-- LD Vx, kk; LD Vx, Vy; and ADD Vx, kk, which wraps and writes no flag (42_load_arithmetic.md R122, R123, R124). -/
def Obligations.LoadsAndAddImmediate : Prop :=
  ∀ (x y : Reg) (kk : Byte) (s : State),
    (∃ t, exec (.ldImm x kk) s = .next t ∧
      t.reg x = kk ∧ RegsBut [x] s t ∧ t.pc = s.pc + 2 ∧ Frame [.regs, .pc] s t) ∧
    (∃ t, exec (.ldReg x y) s = .next t ∧
      t.reg x = s.reg y ∧ RegsBut [x] s t ∧ t.pc = s.pc + 2 ∧ Frame [.regs, .pc] s t) ∧
    (∃ t, exec (.addImm x kk) s = .next t ∧
      (t.reg x).toNat = ((s.reg x).toNat + kk.toNat) % 256 ∧ RegsBut [x] s t ∧ t.pc = s.pc + 2 ∧
      Frame [.regs, .pc] s t)

/-- OR, AND and XOR work bit by bit into Vx and write no flag (42_load_arithmetic.md R125, R126, R127). -/
def Obligations.LogicalOperations : Prop :=
  ∀ (x y : Reg) (s : State),
    (∃ t, exec (.orReg x y) s = .next t ∧
      (∀ b < 8, (t.reg x).getLsbD b = ((s.reg x).getLsbD b || (s.reg y).getLsbD b)) ∧
      RegsBut [x] s t ∧ t.pc = s.pc + 2 ∧ Frame [.regs, .pc] s t) ∧
    (∃ t, exec (.andReg x y) s = .next t ∧
      (∀ b < 8, (t.reg x).getLsbD b = ((s.reg x).getLsbD b && (s.reg y).getLsbD b)) ∧
      RegsBut [x] s t ∧ t.pc = s.pc + 2 ∧ Frame [.regs, .pc] s t) ∧
    (∃ t, exec (.xorReg x y) s = .next t ∧
      (∀ b < 8, (t.reg x).getLsbD b = ((s.reg x).getLsbD b ^^ (s.reg y).getLsbD b)) ∧
      RegsBut [x] s t ∧ t.pc = s.pc + 2 ∧ Frame [.regs, .pc] s t)

/-- ADD Vx, Vy: the sum modulo 256 into Vx, and into VF, unless it is Vx, the carry (42_load_arithmetic.md R121, R128).
Where x or y is F it runs under the snapshot policy. -/
def Obligations.AddSetsCarry : Prop :=
  ∀ (x y : Reg) (s : State), AliasRuns (x = vF ∨ y = vF) s →
    ∃ t, exec (.addReg x y) s = .next t ∧
      (t.reg x).toNat = ((s.reg x).toNat + (s.reg y).toNat) % 256 ∧
      (x ≠ vF → t.reg vF = if 255 < (s.reg x).toNat + (s.reg y).toNat then 1 else 0) ∧
      RegsBut [x, vF] s t ∧ t.pc = s.pc + 2 ∧ Frame [.regs, .pc] s t

/-- SUB and SUBN: the difference modulo 256 into Vx, and into VF, unless it is Vx, 1 iff the minuend is strictly greater
(42_load_arithmetic.md R121, R129, R131). Where x or y is F they run under the snapshot policy. -/
def Obligations.SubtractSetsNotBorrow : Prop :=
  ∀ (x y : Reg) (s : State), AliasRuns (x = vF ∨ y = vF) s →
    (∃ t, exec (.subReg x y) s = .next t ∧
      (t.reg x).toNat = ((s.reg x).toNat + 256 - (s.reg y).toNat) % 256 ∧
      (x ≠ vF → t.reg vF = if (s.reg y).toNat < (s.reg x).toNat then 1 else 0) ∧
      RegsBut [x, vF] s t ∧ t.pc = s.pc + 2 ∧ Frame [.regs, .pc] s t) ∧
    (∃ t, exec (.subnReg x y) s = .next t ∧
      (t.reg x).toNat = ((s.reg y).toNat + 256 - (s.reg x).toNat) % 256 ∧
      (x ≠ vF → t.reg vF = if (s.reg x).toNat < (s.reg y).toNat then 1 else 0) ∧
      RegsBut [x, vF] s t ∧ t.pc = s.pc + 2 ∧ Frame [.regs, .pc] s t)

/-- SHR and SHL shift Vy in place by one, and VF, unless it is Vy, gets the bit shifted out; Vx is neither read nor
written (42_load_arithmetic.md R121, R130, R132). Where y is F they run under the snapshot policy. -/
def Obligations.ShiftsWorkOnVy : Prop :=
  ∀ (x y : Reg) (s : State), AliasRuns (y = vF) s →
    (∃ t, exec (.shrReg x y) s = .next t ∧
      (t.reg y).toNat = (s.reg y).toNat / 2 ∧
      (y ≠ vF → (t.reg vF).toNat = (s.reg y).toNat % 2) ∧
      RegsBut [y, vF] s t ∧ t.pc = s.pc + 2 ∧ Frame [.regs, .pc] s t) ∧
    (∃ t, exec (.shlReg x y) s = .next t ∧
      (t.reg y).toNat = (s.reg y).toNat * 2 % 256 ∧
      (y ≠ vF → (t.reg vF).toNat = (s.reg y).toNat / 128) ∧
      RegsBut [y, vF] s t ∧ t.pc = s.pc + 2 ∧ Frame [.regs, .pc] s t)

/-- Under `VF_ALIAS_POLICY = refuse` the aliasing cases of ADD, SUB, SUBN, SHR and SHL are refused, not faulted
(42_load_arithmetic.md R121). -/
def Obligations.AliasingRefusedUnderRefuse : Prop :=
  ∀ (x y : Reg) (s : State), s.params.vfAliasPolicy = .refuse →
    (x = vF ∨ y = vF → exec (.addReg x y) s = .refused .vfAlias ∧ exec (.subReg x y) s = .refused .vfAlias ∧
      exec (.subnReg x y) s = .refused .vfAlias) ∧
    (y = vF → exec (.shrReg x y) s = .refused .vfAlias ∧ exec (.shlReg x y) s = .refused .vfAlias)

/-! ### Memory instructions -/

/-- LD I, nnn (43_memory_ops.md R140). -/
def Obligations.LdISetsTheIndex : Prop :=
  ∀ (nnn : BitVec 12) (s : State), ∃ t, exec (.ldI nnn) s = .next t ∧
    t.i.toNat = nnn.toNat ∧ t.pc = s.pc + 2 ∧ Frame [.i, .pc] s t

/-- ADD I, Vx adds exactly and writes no flag; a sum above 0xFFFF raises OutOfBoundsAccess at the sum
(43_memory_ops.md R141). -/
def Obligations.AddIAddsOrFaults : Prop :=
  ∀ (x : Reg) (s : State),
    (s.i.toNat + (s.reg x).toNat ≤ 0xFFFF → ∃ t, exec (.addI x) s = .next t ∧
      t.i.toNat = s.i.toNat + (s.reg x).toNat ∧ t.pc = s.pc + 2 ∧ Frame [.i, .pc] s t) ∧
    (0xFFFF < s.i.toNat + (s.reg x).toNat →
      Raises (.addI x) s (.outOfBoundsAccess (s.i.toNat + (s.reg x).toNat)))

/-- LD B, Vx stores the hundreds, tens and ones at I, I + 1, I + 2 and leaves I; it faults at the lowest address that is
protected or out of bounds (43_memory_ops.md R142, 20_memory.md R53, R60). -/
def Obligations.LdBStoresDecimalDigits : Prop :=
  ∀ (x : Reg) (s : State),
    (0x50 ≤ s.i.toNat → s.i.toNat + 2 ≤ 0xFFF → ∃ t, exec (.ldB x) s = .next t ∧
      (t.byteAt s.i.toNat).toNat = (s.reg x).toNat / 100 ∧
      (t.byteAt (s.i.toNat + 1)).toNat = (s.reg x).toNat / 10 % 10 ∧
      (t.byteAt (s.i.toNat + 2)).toNat = (s.reg x).toNat % 10 ∧
      MemoryBut s.i.toNat 3 s t ∧ t.pc = s.pc + 2 ∧ Frame [.mem, .pc] s t) ∧
    (s.i.toNat ≤ 0x4F → Raises (.ldB x) s (.protectedWrite s.i.toNat)) ∧
    (0xFFF < s.i.toNat + 2 → Raises (.ldB x) s (.outOfBoundsAccess (max s.i.toNat 0x1000)))

/-- LD [I], Vx stores V0..Vx from I and sets I to I + x + 1; it faults at the lowest address that is protected or out of
bounds (43_memory_ops.md R143, 20_memory.md R53, R60). -/
def Obligations.StoreRegsStoresAndAdvances : Prop :=
  ∀ (x : Reg) (s : State),
    (0x50 ≤ s.i.toNat → s.i.toNat + x.val ≤ 0xFFF → ∃ t, exec (.storeRegs x) s = .next t ∧
      (∀ k : Reg, k.val ≤ x.val → t.byteAt (s.i.toNat + k.val) = s.reg k) ∧
      MemoryBut s.i.toNat (x.val + 1) s t ∧ t.i.toNat = s.i.toNat + x.val + 1 ∧ t.pc = s.pc + 2 ∧
      Frame [.mem, .i, .pc] s t) ∧
    (s.i.toNat ≤ 0x4F → Raises (.storeRegs x) s (.protectedWrite s.i.toNat)) ∧
    (0xFFF < s.i.toNat + x.val → Raises (.storeRegs x) s (.outOfBoundsAccess (max s.i.toNat 0x1000)))

/-- LD Vx, [I] loads V0..Vx from I, glyph table included, and sets I to I + x + 1; it faults at the lowest address out of
bounds (43_memory_ops.md R144, 20_memory.md R52, R60). -/
def Obligations.LoadRegsLoadsAndAdvances : Prop :=
  ∀ (x : Reg) (s : State),
    (s.i.toNat + x.val ≤ 0xFFF → ∃ t, exec (.loadRegs x) s = .next t ∧
      (∀ k : Reg, t.reg k = if k.val ≤ x.val then s.byteAt (s.i.toNat + k.val) else s.reg k) ∧
      t.i.toNat = s.i.toNat + x.val + 1 ∧ t.pc = s.pc + 2 ∧ Frame [.regs, .i, .pc] s t) ∧
    (0xFFF < s.i.toNat + x.val → Raises (.loadRegs x) s (.outOfBoundsAccess (max s.i.toNat 0x1000)))

/-- Storing V0..Vx and loading the same range back from the same I, into whatever the registers have become, gives the
stored values again; I advances by x + 1 each time (43_memory_ops.md R143, R144). -/
def Obligations.StoreThenLoadRestoresRegisters : Prop :=
  ∀ (x : Reg) (s : State) (v : Vector Byte 16), 0x50 ≤ s.i.toNat → s.i.toNat + x.val ≤ 0xFFF →
    ∃ t u, exec (.storeRegs x) s = .next t ∧ exec (.loadRegs x) { t with v := v, i := s.i } = .next u ∧
      (∀ k : Reg, k.val ≤ x.val → u.reg k = s.reg k) ∧
      t.i.toNat = s.i.toNat + x.val + 1 ∧ u.i.toNat = s.i.toNat + x.val + 1

/-- The first two bytes LD [I], Vx stores are the word a later fetch at the same address reads, V0 the high byte
(20_memory.md R55, R63). -/
def Obligations.FetchSeesStoredBytes : Prop :=
  ∀ (x : Reg) (s : State), 1 ≤ x.val → 0x50 ≤ s.i.toNat → s.i.toNat + x.val ≤ 0xFFF →
    ∃ t, exec (.storeRegs x) s = .next t ∧
      ∃ w, ({ t with pc := s.i }).fetch = .ok w ∧ w.toNat = (s.reg 0).toNat * 256 + (s.reg 1).toNat

/-! ### Random, input, timers, glyphs -/

/-- RND masks the random byte with kk into Vx and consumes exactly one byte: the next supplied one, or else a free one,
about which nothing is known (44_random.md R150, R151; the supply is the model's, entry 8). -/
def Obligations.RndMasksOneRandomByte : Prop :=
  ∀ (x : Reg) (kk : Byte) (s : State),
    (∀ b bs, s.rand = b :: bs → ∃ t, exec (.rnd x kk) s = .next t ∧
      t.reg x = b &&& kk ∧ t.rand = bs ∧ RegsBut [x] s t ∧ t.pc = s.pc + 2 ∧ Frame [.regs, .rand, .pc] s t) ∧
    (s.rand = [] → ∃ t, exec (.rnd x kk) s = .next t ∧
      t.reg x = Config.freeRandomByte s.draws &&& kk ∧ t.draws = s.draws + 1 ∧ RegsBut [x] s t ∧
      t.pc = s.pc + 2 ∧ Frame [.regs, .draws, .pc] s t)

/-- SKP and SKNP skip on the level of the key Vx names; an index above 15 raises InvalidKeyIndex
(46_input.md R170, R171). -/
def Obligations.SkipsOnKeys : Prop :=
  ∀ (x : Reg) (s : State),
    (∀ k : Fin 16, (s.reg x).toNat = k.val →
      (∃ t, exec (.skp x) s = .next t ∧ t.pc = s.pc + (if s.keys[k] = true then 4 else 2) ∧ Frame [.pc] s t) ∧
      (∃ t, exec (.sknp x) s = .next t ∧ t.pc = s.pc + (if s.keys[k] = true then 2 else 4) ∧ Frame [.pc] s t)) ∧
    (0x0F < (s.reg x).toNat →
      Raises (.skp x) s (.invalidKeyIndex (s.reg x)) ∧ Raises (.sknp x) s (.invalidKeyIndex (s.reg x)))

/-- LD Vx, DT reads the delay timer; LD DT, Vx and LD ST, Vx write a timer; none decrements one
(47_timers.md R180, R181, R182). -/
def Obligations.TimerTransfers : Prop :=
  ∀ (x : Reg) (s : State),
    (∃ t, exec (.ldVxDt x) s = .next t ∧
      t.reg x = s.dt ∧ RegsBut [x] s t ∧ t.pc = s.pc + 2 ∧ Frame [.regs, .pc] s t) ∧
    (∃ t, exec (.ldDtVx x) s = .next t ∧ t.dt = s.reg x ∧ t.pc = s.pc + 2 ∧ Frame [.dt, .pc] s t) ∧
    (∃ t, exec (.ldStVx x) s = .next t ∧ t.st = s.reg x ∧ t.pc = s.pc + 2 ∧ Frame [.st, .pc] s t)

/-- LD F, Vx points I at 5 times the digit; a digit above 15 raises InvalidGlyphDigit (47_timers.md R183). -/
def Obligations.LdFPointsAtTheGlyph : Prop :=
  ∀ (x : Reg) (s : State),
    ((s.reg x).toNat ≤ 0x0F → ∃ t, exec (.ldF x) s = .next t ∧
      t.i.toNat = 5 * (s.reg x).toNat ∧ t.pc = s.pc + 2 ∧ Frame [.i, .pc] s t) ∧
    (0x0F < (s.reg x).toNat → Raises (.ldF x) s (.invalidGlyphDigit (s.reg x)))

/-! ### Sprite draw -/

/-- DRW inverts exactly the pixels a set sprite bit lands on, and VF is 1 iff one of them was set; Repaint is emitted once
(counted in the model's own field, entry 12) and nothing else changes. The loop over rows and bits is thus one exclusive
or per pixel (45_sprite_draw.md R160, R161). -/
def Obligations.DrawIsPixelwiseXor : Prop :=
  ∀ (x y : Reg) (n : Nat) (s : State), n ≤ 15 → (n = 0 ∨ s.i.toNat + n ≤ 0x1000) →
    ∃ t, exec (.drw x y n) s = .next t ∧
      (∀ px py, px < 64 → py < 32 →
        (SpriteSets s (s.reg x).toNat (s.reg y).toNat n px py → t.pixel px py = !s.pixel px py) ∧
        (¬ SpriteSets s (s.reg x).toNat (s.reg y).toNat n px py → t.pixel px py = s.pixel px py)) ∧
      ((∃ px py, px < 64 ∧ py < 32 ∧ s.pixel px py = true ∧
          SpriteSets s (s.reg x).toNat (s.reg y).toNat n px py) → t.reg vF = 1) ∧
      ((∀ px py, px < 64 → py < 32 → s.pixel px py = true →
          ¬ SpriteSets s (s.reg x).toNat (s.reg y).toNat n px py) → t.reg vF = 0) ∧
      t.repaints = s.repaints + 1 ∧ t.pc = s.pc + 2 ∧ RegsBut [vF] s t ∧
      Frame [.regs, .fb, .repaints, .pc] s t

/-- DRW with a row outside memory raises OutOfBoundsAccess at the lowest such address (45_sprite_draw.md R161,
20_memory.md R60). -/
def Obligations.DrawOutOfBoundsFaults : Prop :=
  ∀ (x y : Reg) (n : Nat) (s : State), n ≠ 0 → 0x1000 < s.i.toNat + n →
    Raises (.drw x y n) s (.outOfBoundsAccess (max s.i.toNat 0x1000))

/-- Drawing the same sprite twice at the same place restores every pixel, and the second draw leaves VF = 1 iff a set bit
of the sprite lands on a pixel that was unset before the first: one the first draw set (the pseudocode of
45_sprite_draw.md R161; entry 25 says where R161's own remark on the second draw is narrower). -/
def Obligations.DrawTwiceRestoresTheScreen : Prop :=
  ∀ (x y : Reg) (n : Nat) (s t : State), n ≤ 15 → (n = 0 ∨ s.i.toNat + n ≤ 0x1000) →
    exec (.drw x y n) s = .next t → t.reg x = s.reg x → t.reg y = s.reg y →
      ∃ u, exec (.drw x y n) t = .next u ∧ u.fb = s.fb ∧
        ((∃ px py, px < 64 ∧ py < 32 ∧ s.pixel px py = false ∧
            SpriteSets s (s.reg x).toNat (s.reg y).toNat n px py) → u.reg vF = 1) ∧
        ((∀ px py, px < 64 → py < 32 → s.pixel px py = false →
            ¬ SpriteSets s (s.reg x).toNat (s.reg y).toNat n px py) → u.reg vF = 0)

/-! ### The whole machine -/

/-- Every instruction answers a next state at every state, but for the aliasing forms of R121 under the policy refuse,
which are refused (42_load_arithmetic.md R121, 60_exceptions.md R203; a fault is a next state, entry 1). -/
def Obligations.EveryInstructionRuns : Prop :=
  ∀ (i : Instr) (s : State),
    (∃ t, exec i s = .next t) ∨
    (exec i s = .refused .vfAlias ∧ s.params.vfAliasPolicy = .refuse ∧ AliasForm i)

/-- A step ends in a next state, or in one of the two refusals the spec itself asks for: a Cycle of a running block whose
instruction is an aliasing form, under the policy refuse, and a LoadRom after a Cycle has begun (42_load_arithmetic.md
R121, 70_reset_and_hazards.md R234; entries 1, 10 and 11). -/
def Obligations.StepStopsOnlyWhereTheSpecRefuses : Prop :=
  ∀ s : State,
    (∃ t, step s = .next t) ∨
    (step s = .refused .vfAlias ∧ s.params.vfAliasPolicy = .refuse ∧ s.fault = none ∧ (∃ rest, CycleNext s rest) ∧
      ∃ w i, s.fetch = .ok w ∧ decodeWord w = .ok i ∧ AliasForm i) ∨
    (step s = .refused .loadRomAfterCycle ∧ s.started = true ∧ ∃ bytes rest, s.driver = .loadRom bytes :: rest)

/-- A fault an instruction raises is one R201 gives it, of an in-cycle kind with a code from 2 to 7, recorded with the
instruction's address and word (60_exceptions.md R200, R201). -/
def Obligations.FaultsAreThoseListed : Prop :=
  ∀ (i : Instr) (s t : State) (r : FaultRecord), s.fault = none → exec i s = .next t → t.fault = some r →
    MayRaise i r.kind ∧ 2 ≤ r.kind.code ∧ r.kind.code ≤ 7 ∧ r.pc = s.pc ∧ r.opcode = some (encode i)

/-- Fault entry writes the record and nothing else. This is the model's convention, R203's "the model", and says nothing
of an implementation (60_exceptions.md R203, R204, 20_memory.md R60; entry 2). -/
def Obligations.FaultEntryWritesOnlyTheRecord : Prop :=
  ∀ (i : Instr) (s t : State), s.fault = none → exec i s = .next t → t.fault ≠ none → Frame [.fault] s t

/-- PC after an instruction that raises no fault: the target of a jump, call or return, PC + 4 where a skip's condition
holds, and PC + 2 otherwise and for every other instruction (30_encoding.md R78). That the sums do not wrap is R78's own
inference from R54 and R24, and the model adds in 16 bits (entry 16). -/
def Obligations.PcAfterEachOutcome : Prop :=
  ∀ (i : Instr) (s t : State), s.pc.toNat ≤ 0xFFE → exec i s = .next t → t.fault = none →
    match i with
    | .jp nnn => t.pc.toNat = nnn.toNat
    | .call nnn => t.pc.toNat = nnn.toNat
    | .jpV0 nnn => t.pc.toNat = (s.reg 0).toNat + nnn.toNat
    | .ret => ∃ k : Fin 16, s.sp.val = k.val + 1 ∧ t.pc = s.stack[k]
    | .seImm x kk => t.pc.toNat = s.pc.toNat + if s.reg x = kk then 4 else 2
    | .sneImm x kk => t.pc.toNat = s.pc.toNat + if s.reg x = kk then 2 else 4
    | .seReg x y => t.pc.toNat = s.pc.toNat + if s.reg x = s.reg y then 4 else 2
    | .sneReg x y => t.pc.toNat = s.pc.toNat + if s.reg x = s.reg y then 2 else 4
    | .skp x => t.pc.toNat = s.pc.toNat + if s.keys[(s.reg x).toNat]? = some true then 4 else 2
    | .sknp x => t.pc.toNat = s.pc.toNat + if s.keys[(s.reg x).toNat]? = some false then 4 else 2
    | _ => t.pc.toNat = s.pc.toNat + 2

/-- Only CALL and RET write the stack and SP, and no other instruction's result depends on them (10_state.md R25). -/
def Obligations.OnlyCallAndRetUseTheStack : Prop :=
  ∀ (i : Instr) (s t : State), i ≠ .ret → (∀ nnn, i ≠ .call nnn) → exec i s = .next t → t.fault = none →
    t.stack = s.stack ∧ t.sp = s.sp ∧
    ∀ (stack : Vector Word 16) (sp : Fin 17),
      exec i { s with stack := stack, sp := sp } = .next { t with stack := stack, sp := sp }

/-- Only CLS and DRW write the framebuffer and emit Repaint, and only DRW reads it (10_state.md R30, R40). -/
def Obligations.OnlyClsAndDrwTouchTheScreen : Prop :=
  ∀ (i : Instr) (s t : State), i ≠ .cls → (∀ x y n, i ≠ .drw x y n) → exec i s = .next t → t.fault = none →
    t.fb = s.fb ∧ t.repaints = s.repaints ∧
    ∀ fb : Framebuffer, exec i { s with fb := fb } = .next { t with fb := fb }

/-- The only writers of I are LD I, ADD I, LD F, LD [I] and LD Vx,[I]; the only instruction that writes DT is LD DT, Vx
and the only one that writes ST is LD ST, Vx; no instruction's result depends on ST (10_state.md R23, R27, R28). -/
def Obligations.IndexAndTimerWriters : Prop :=
  ∀ (i : Instr) (s t : State), exec i s = .next t → t.fault = none →
    (t.i ≠ s.i → (∃ nnn, i = .ldI nnn) ∨ ∃ x, i = .addI x ∨ i = .ldF x ∨ i = .storeRegs x ∨ i = .loadRegs x) ∧
    (t.dt ≠ s.dt → ∃ x, i = .ldDtVx x) ∧ (t.st ≠ s.st → ∃ x, i = .ldStVx x) ∧
    ((∀ x, i ≠ .ldStVx x) → ∀ b : Byte, exec i { s with st := b } = .next { t with st := b })

/-- A byte of memory changes only by LD B and LD [I], and only inside the 3 or x + 1 bytes from I
(20_memory.md R58, R59). -/
def Obligations.MemoryWriters : Prop :=
  ∀ (i : Instr) (s t : State) (a : Nat), exec i s = .next t → t.fault = none → t.byteAt a ≠ s.byteAt a →
    (∃ x, i = .ldB x ∧ s.i.toNat ≤ a ∧ a < s.i.toNat + 3) ∨
    (∃ x : Reg, i = .storeRegs x ∧ s.i.toNat ≤ a ∧ a < s.i.toNat + x.val + 1)

/-- A general register changes only as a named destination, and VF also by the six instructions that set it as a flag
(10_state.md R22). -/
def Obligations.RegisterWriters : Prop :=
  ∀ (i : Instr) (s t : State) (r : Reg), exec i s = .next t → t.fault = none → t.reg r ≠ s.reg r →
    Destination i r ∨ (r = vF ∧ WritesFlag i = true)

/-- Only SKP, SKNP and RND read the keypad or the random byte, and only RND consumes one (30_encoding.md R77,
44_random.md R150, 10_state.md R31). -/
def Obligations.OnlyInputInstructionsReadInputs : Prop :=
  ∀ (i : Instr) (s t : State) (keys : Keypad) (rand : List Byte) (draws : Nat),
    (∀ x, i ≠ .skp x) → (∀ x, i ≠ .sknp x) → (∀ x kk, i ≠ .rnd x kk) → exec i s = .next t → t.fault = none →
      t.keys = s.keys ∧ t.rand = s.rand ∧ t.draws = s.draws ∧
      exec i { s with keys := keys, rand := rand, draws := draws } =
        .next { t with keys := keys, rand := rand, draws := draws }

/-- In a step, DT does not increase unless the driver resets the block or the instruction is LD DT, Vx, and it falls by at
most one (60_exceptions.md R210). -/
def Obligations.DelayTimerOnlyFalls : Prop :=
  ∀ s t : State, step s = .next t → t.fault = none → (∀ rest, s.driver ≠ .reset :: rest) →
    (∀ w x, s.fetch = .ok w → decodeWord w ≠ .ok (.ldDtVx x)) →
      t.dt.toNat ≤ s.dt.toNat ∧ s.dt.toNat ≤ t.dt.toNat + 1

/-- A Cycle at a jump to itself, queued or not, changes nothing of the state (70_reset_and_hazards.md R239 (b)); around it
the model's `started` remembers that a Cycle has begun (entry 11) and a queued Cycle is taken off (entry 10). -/
def Obligations.SelfJumpChangesNothing : Prop :=
  ∀ (s : State) (rest : List Transaction), CycleNext s rest → s.fault = none → SelfJump s →
    step s = .next { s with started := true, driver := rest }

/-- No step changes the block's parameters (00_scope.md R5; they are the model's field, entry 3). -/
def Obligations.ParametersNeverChange : Prop :=
  ∀ s t : State, step s = .next t → t.params = s.params

/-- Every step keeps memory in canonical form with nothing over the glyph table. The form is the model's (entry 5);
that nothing stands over the glyph table is 20_memory.md R51 and R53. Where the step raises a fault, this is a fact about
the model, which writes nothing but the record (entry 2; 20_memory.md R60, 60_exceptions.md R203), and no claim about a
halted block (R204). -/
def Obligations.StepKeepsMemoryInvariant : Prop :=
  ∀ s t : State, MemoryInv s → step s = .next t → MemoryInv t

/-- No transaction changes a byte of the glyph table, which reads as GLYPH_TABLE (20_memory.md R51, R53, R57). -/
def Obligations.GlyphTableIsImmutable : Prop :=
  ∀ s t : State, MemoryInv s → step s = .next t → t.fault = none →
    ∀ a (h : a < 80), t.byteAt a = s.byteAt a ∧ t.byteAt a = s.params.glyphTable[a]

/-- Every step keeps PC at most 0x10FE and every live return address at most 0x1000 (10_state.md R24,
40_control.md R103, R104). Where the step raises a fault, this is a fact about the model, which writes nothing but the
record and keeps PC (entry 2; 30_encoding.md R77, 60_exceptions.md R203), and no claim about a halted block (R204). -/
def Obligations.StepKeepsPcInvariant : Prop :=
  ∀ s t : State, PcInv s → step s = .next t → PcInv t

/-- Both invariants hold after reset, for every well-formed value of the parameters and for `State.reset`. -/
def Obligations.InvariantsHoldAtReset : Prop :=
  (∀ p, ParamsWf p → MemoryInv (State.resetWith p) ∧ PcInv (State.resetWith p)) ∧
  MemoryInv State.reset ∧ PcInv State.reset
end

