-- ==== Sys2Proof/Laws/Decode.lean ====
section
/-! SUPPORT. The fields of the words the encoder builds, and the masks of the opcode table as arithmetic. -/

namespace Sys2Proof

/-- The top four bits under a mask. -/
theorem mask_F000 (w : Word) : (w &&& 0xF000#16).toNat = w.toNat / 4096 * 4096 := by
  have hw := w.isLt
  rw [BitVec.toNat_and]
  refine Nat.eq_of_testBit_eq fun k => ?_
  have h : (w.toNat / 4096 * 4096).testBit k = (decide (12 ≤ k) && w.toNat.testBit k) := by
    rw [show (4096 : Nat) = 2 ^ 12 by rfl, Nat.testBit_mul_two_pow, Nat.testBit_div_two_pow]
    by_cases hk : 12 ≤ k
    · simp [hk]
    · simp [hk]
  rw [Nat.testBit_and, h]
  by_cases hk : k < 16
  · have : ((0xF000#16).toNat).testBit k = decide (12 ≤ k) := by
      clear h; revert hk; revert k; decide
    rw [this, Bool.and_comm]
  · have : w.toNat.testBit k = false :=
      Nat.testBit_lt_two_pow (Nat.lt_of_lt_of_le hw (Nat.pow_le_pow_right (by decide) (by omega)))
    simp [this]

/-- The low four bits under a mask. -/
theorem mask_000F (w : Word) : (w &&& 0x000F#16).toNat = w.toNat % 16 := by
  rw [BitVec.toNat_and]; exact Nat.and_two_pow_sub_one_eq_mod w.toNat 4

/-- The low eight bits under a mask. -/
theorem mask_00FF (w : Word) : (w &&& 0x00FF#16).toNat = w.toNat % 256 := by
  rw [BitVec.toNat_and]; exact Nat.and_two_pow_sub_one_eq_mod w.toNat 8

theorem toNat_or_disjoint {a b m : Nat} (ha : a % 2 ^ m = 0) (hb : b < 2 ^ m) : a ||| b = a + b := by
  have : a = 2 ^ m * (a / 2 ^ m) := by have := Nat.div_add_mod a (2 ^ m); omega
  rw [this, ← Nat.two_pow_add_eq_or_of_lt hb]

/-- The mask of format `xyn` with n fixed. -/
theorem mask_F00F (w : Word) : (w &&& 0xF00F#16).toNat = w.toNat / 4096 * 4096 + w.toNat % 16 := by
  rw [show (0xF00F#16) = 0xF000#16 ||| 0x000F#16 by decide, BitVec.and_or_distrib_left, BitVec.toNat_or, mask_F000,
    mask_000F]
  exact toNat_or_disjoint (m := 12) (by omega) (by omega)

/-- The mask of format `xfn`. -/
theorem mask_F0FF (w : Word) : (w &&& 0xF0FF#16).toNat = w.toNat / 4096 * 4096 + w.toNat % 256 := by
  rw [show (0xF0FF#16) = 0xF000#16 ||| 0x00FF#16 by decide, BitVec.and_or_distrib_left, BitVec.toNat_or, mask_F000,
    mask_00FF]
  exact toNat_or_disjoint (m := 12) (by omega) (by omega)

/-- The mask of format `fixed`. -/
theorem mask_FFFF (w : Word) : w &&& 0xFFFF#16 = w := BitVec.and_allOnes

theorem toNat_encNNN {op : Nat} (h : op < 16) (nnn : BitVec 12) : (encNNN op nnn).toNat = op * 4096 + nnn.toNat := by
  have := nnn.isLt
  simp only [encNNN, BitVec.toNat_ofNat]; omega

theorem toNat_encXKK {op : Nat} (h : op < 16) (x : Reg) {kk : Nat} (hk : kk < 256) :
    (encXKK op x kk).toNat = op * 4096 + x.val * 256 + kk := by
  have := x.isLt
  simp only [encXKK, BitVec.toNat_ofNat]; omega

theorem toNat_encXYN {op : Nat} (h : op < 16) (x y : Reg) (n : Nat) :
    (encXYN op x y n).toNat = op * 4096 + x.val * 256 + y.val * 16 + n % 16 := by
  have := x.isLt; have := y.isLt
  simp only [encXYN, BitVec.toNat_ofNat]; omega

theorem fieldOp_eq (w : Word) : fieldOp w = w.toNat / 4096 := by
  have := w.isLt
  simp only [fieldOp, bits, Nat.reducePow]; omega

theorem fieldN_eq (w : Word) : fieldN w = w.toNat % 16 := by simp [fieldN, bits]

theorem bits_kk_eq (w : Word) : bits w 0 8 = w.toNat % 256 := by simp [bits]

theorem fieldX_val (w : Word) : (fieldX w).val = w.toNat / 256 % 16 := by simp [fieldX, bits, Fin.ofNat]

theorem fieldY_val (w : Word) : (fieldY w).val = w.toNat / 16 % 16 := by simp [fieldY, bits, Fin.ofNat]

theorem toNat_fieldKK (w : Word) : (fieldKK w).toNat = w.toNat % 256 := by simp [fieldKK, bits]

theorem toNat_fieldNNN (w : Word) : (fieldNNN w).toNat = w.toNat % 4096 := by simp [fieldNNN, bits]

theorem toNat_wordOfBytes (hi lo : Byte) : (wordOfBytes hi lo).toNat = hi.toNat * 256 + lo.toNat := by
  have := hi.isLt; have := lo.isLt
  simp only [wordOfBytes, BitVec.toNat_ofNat]; omega

/-- The two bytes of a word make the word again (20_memory.md R55). -/
theorem decode_bytesOfWord (w : Word) (rest : List Byte) :
    decode (bytesOfWord w ++ rest) =
      match decodeWord w with
      | .ok i => .ok (i, rest)
      | .error e => .error e := by
  have h : wordOfBytes (BitVec.ofNat 8 (w.toNat / 256)) (BitVec.ofNat 8 w.toNat) = w := by
    have := w.isLt
    apply BitVec.eq_of_toNat_eq
    rw [toNat_wordOfBytes, BitVec.toNat_ofNat, BitVec.toNat_ofNat]; omega
  cases hd : decodeWord w <;> simp only [bytesOfWord, List.cons_append, List.nil_append, decode, h, hd]

end Sys2Proof
end

