-- ==== Sys2Proof/Laws/State.lean ====
section
/-! SUPPORT. What every update of the state does to every field, and to the registers, bytes and pixels read from it. -/

namespace Sys2Proof.Machine

/-! ### setReg -/

@[simp] theorem State.setReg_v (s : State) (r : Reg) (b : Byte) : (s.setReg r b).v = s.v.set r b := rfl
@[simp] theorem State.setReg_i (s : State) (r : Reg) (b : Byte) : (s.setReg r b).i = s.i := rfl
@[simp] theorem State.setReg_pc (s : State) (r : Reg) (b : Byte) : (s.setReg r b).pc = s.pc := rfl
@[simp] theorem State.setReg_stack (s : State) (r : Reg) (b : Byte) : (s.setReg r b).stack = s.stack := rfl
@[simp] theorem State.setReg_sp (s : State) (r : Reg) (b : Byte) : (s.setReg r b).sp = s.sp := rfl
@[simp] theorem State.setReg_dt (s : State) (r : Reg) (b : Byte) : (s.setReg r b).dt = s.dt := rfl
@[simp] theorem State.setReg_st (s : State) (r : Reg) (b : Byte) : (s.setReg r b).st = s.st := rfl
@[simp] theorem State.setReg_mem (s : State) (r : Reg) (b : Byte) : (s.setReg r b).mem = s.mem := rfl
@[simp] theorem State.setReg_fb (s : State) (r : Reg) (b : Byte) : (s.setReg r b).fb = s.fb := rfl
@[simp] theorem State.setReg_fault (s : State) (r : Reg) (b : Byte) : (s.setReg r b).fault = s.fault := rfl
@[simp] theorem State.setReg_keys (s : State) (r : Reg) (b : Byte) : (s.setReg r b).keys = s.keys := rfl
@[simp] theorem State.setReg_rand (s : State) (r : Reg) (b : Byte) : (s.setReg r b).rand = s.rand := rfl
@[simp] theorem State.setReg_draws (s : State) (r : Reg) (b : Byte) : (s.setReg r b).draws = s.draws := rfl
@[simp] theorem State.setReg_repaints (s : State) (r : Reg) (b : Byte) : (s.setReg r b).repaints = s.repaints := rfl
@[simp] theorem State.setReg_loadReport (s : State) (r : Reg) (b : Byte) : (s.setReg r b).loadReport = s.loadReport := rfl
@[simp] theorem State.setReg_started (s : State) (r : Reg) (b : Byte) : (s.setReg r b).started = s.started := rfl
@[simp] theorem State.setReg_driver (s : State) (r : Reg) (b : Byte) : (s.setReg r b).driver = s.driver := rfl
@[simp] theorem State.setReg_params (s : State) (r : Reg) (b : Byte) : (s.setReg r b).params = s.params := rfl
@[simp] theorem State.setReg_byteAt (s : State) (r : Reg) (b : Byte) (p : Nat) : (s.setReg r b).byteAt p = s.byteAt p := rfl
@[simp] theorem State.setReg_pixel (s : State) (r : Reg) (b : Byte) (px py : Nat) : (s.setReg r b).pixel px py = s.pixel px py := rfl

/-! ### setI -/

@[simp] theorem State.setI_v (s : State) (w : Word) : (s.setI w).v = s.v := rfl
@[simp] theorem State.setI_i (s : State) (w : Word) : (s.setI w).i = w := rfl
@[simp] theorem State.setI_pc (s : State) (w : Word) : (s.setI w).pc = s.pc := rfl
@[simp] theorem State.setI_stack (s : State) (w : Word) : (s.setI w).stack = s.stack := rfl
@[simp] theorem State.setI_sp (s : State) (w : Word) : (s.setI w).sp = s.sp := rfl
@[simp] theorem State.setI_dt (s : State) (w : Word) : (s.setI w).dt = s.dt := rfl
@[simp] theorem State.setI_st (s : State) (w : Word) : (s.setI w).st = s.st := rfl
@[simp] theorem State.setI_mem (s : State) (w : Word) : (s.setI w).mem = s.mem := rfl
@[simp] theorem State.setI_fb (s : State) (w : Word) : (s.setI w).fb = s.fb := rfl
@[simp] theorem State.setI_fault (s : State) (w : Word) : (s.setI w).fault = s.fault := rfl
@[simp] theorem State.setI_keys (s : State) (w : Word) : (s.setI w).keys = s.keys := rfl
@[simp] theorem State.setI_rand (s : State) (w : Word) : (s.setI w).rand = s.rand := rfl
@[simp] theorem State.setI_draws (s : State) (w : Word) : (s.setI w).draws = s.draws := rfl
@[simp] theorem State.setI_repaints (s : State) (w : Word) : (s.setI w).repaints = s.repaints := rfl
@[simp] theorem State.setI_loadReport (s : State) (w : Word) : (s.setI w).loadReport = s.loadReport := rfl
@[simp] theorem State.setI_started (s : State) (w : Word) : (s.setI w).started = s.started := rfl
@[simp] theorem State.setI_driver (s : State) (w : Word) : (s.setI w).driver = s.driver := rfl
@[simp] theorem State.setI_params (s : State) (w : Word) : (s.setI w).params = s.params := rfl
@[simp] theorem State.setI_reg (s : State) (w : Word) (x : Reg) : (s.setI w).reg x = s.reg x := rfl
@[simp] theorem State.setI_byteAt (s : State) (w : Word) (p : Nat) : (s.setI w).byteAt p = s.byteAt p := rfl
@[simp] theorem State.setI_pixel (s : State) (w : Word) (px py : Nat) : (s.setI w).pixel px py = s.pixel px py := rfl

/-! ### setPc -/

@[simp] theorem State.setPc_v (s : State) (w : Word) : (s.setPc w).v = s.v := rfl
@[simp] theorem State.setPc_i (s : State) (w : Word) : (s.setPc w).i = s.i := rfl
@[simp] theorem State.setPc_pc (s : State) (w : Word) : (s.setPc w).pc = w := rfl
@[simp] theorem State.setPc_stack (s : State) (w : Word) : (s.setPc w).stack = s.stack := rfl
@[simp] theorem State.setPc_sp (s : State) (w : Word) : (s.setPc w).sp = s.sp := rfl
@[simp] theorem State.setPc_dt (s : State) (w : Word) : (s.setPc w).dt = s.dt := rfl
@[simp] theorem State.setPc_st (s : State) (w : Word) : (s.setPc w).st = s.st := rfl
@[simp] theorem State.setPc_mem (s : State) (w : Word) : (s.setPc w).mem = s.mem := rfl
@[simp] theorem State.setPc_fb (s : State) (w : Word) : (s.setPc w).fb = s.fb := rfl
@[simp] theorem State.setPc_fault (s : State) (w : Word) : (s.setPc w).fault = s.fault := rfl
@[simp] theorem State.setPc_keys (s : State) (w : Word) : (s.setPc w).keys = s.keys := rfl
@[simp] theorem State.setPc_rand (s : State) (w : Word) : (s.setPc w).rand = s.rand := rfl
@[simp] theorem State.setPc_draws (s : State) (w : Word) : (s.setPc w).draws = s.draws := rfl
@[simp] theorem State.setPc_repaints (s : State) (w : Word) : (s.setPc w).repaints = s.repaints := rfl
@[simp] theorem State.setPc_loadReport (s : State) (w : Word) : (s.setPc w).loadReport = s.loadReport := rfl
@[simp] theorem State.setPc_started (s : State) (w : Word) : (s.setPc w).started = s.started := rfl
@[simp] theorem State.setPc_driver (s : State) (w : Word) : (s.setPc w).driver = s.driver := rfl
@[simp] theorem State.setPc_params (s : State) (w : Word) : (s.setPc w).params = s.params := rfl
@[simp] theorem State.setPc_reg (s : State) (w : Word) (x : Reg) : (s.setPc w).reg x = s.reg x := rfl
@[simp] theorem State.setPc_byteAt (s : State) (w : Word) (p : Nat) : (s.setPc w).byteAt p = s.byteAt p := rfl
@[simp] theorem State.setPc_pixel (s : State) (w : Word) (px py : Nat) : (s.setPc w).pixel px py = s.pixel px py := rfl

/-! ### setDt -/

@[simp] theorem State.setDt_v (s : State) (b : Byte) : (s.setDt b).v = s.v := rfl
@[simp] theorem State.setDt_i (s : State) (b : Byte) : (s.setDt b).i = s.i := rfl
@[simp] theorem State.setDt_pc (s : State) (b : Byte) : (s.setDt b).pc = s.pc := rfl
@[simp] theorem State.setDt_stack (s : State) (b : Byte) : (s.setDt b).stack = s.stack := rfl
@[simp] theorem State.setDt_sp (s : State) (b : Byte) : (s.setDt b).sp = s.sp := rfl
@[simp] theorem State.setDt_dt (s : State) (b : Byte) : (s.setDt b).dt = b := rfl
@[simp] theorem State.setDt_st (s : State) (b : Byte) : (s.setDt b).st = s.st := rfl
@[simp] theorem State.setDt_mem (s : State) (b : Byte) : (s.setDt b).mem = s.mem := rfl
@[simp] theorem State.setDt_fb (s : State) (b : Byte) : (s.setDt b).fb = s.fb := rfl
@[simp] theorem State.setDt_fault (s : State) (b : Byte) : (s.setDt b).fault = s.fault := rfl
@[simp] theorem State.setDt_keys (s : State) (b : Byte) : (s.setDt b).keys = s.keys := rfl
@[simp] theorem State.setDt_rand (s : State) (b : Byte) : (s.setDt b).rand = s.rand := rfl
@[simp] theorem State.setDt_draws (s : State) (b : Byte) : (s.setDt b).draws = s.draws := rfl
@[simp] theorem State.setDt_repaints (s : State) (b : Byte) : (s.setDt b).repaints = s.repaints := rfl
@[simp] theorem State.setDt_loadReport (s : State) (b : Byte) : (s.setDt b).loadReport = s.loadReport := rfl
@[simp] theorem State.setDt_started (s : State) (b : Byte) : (s.setDt b).started = s.started := rfl
@[simp] theorem State.setDt_driver (s : State) (b : Byte) : (s.setDt b).driver = s.driver := rfl
@[simp] theorem State.setDt_params (s : State) (b : Byte) : (s.setDt b).params = s.params := rfl
@[simp] theorem State.setDt_reg (s : State) (b : Byte) (x : Reg) : (s.setDt b).reg x = s.reg x := rfl
@[simp] theorem State.setDt_byteAt (s : State) (b : Byte) (p : Nat) : (s.setDt b).byteAt p = s.byteAt p := rfl
@[simp] theorem State.setDt_pixel (s : State) (b : Byte) (px py : Nat) : (s.setDt b).pixel px py = s.pixel px py := rfl

/-! ### setSt -/

@[simp] theorem State.setSt_v (s : State) (b : Byte) : (s.setSt b).v = s.v := rfl
@[simp] theorem State.setSt_i (s : State) (b : Byte) : (s.setSt b).i = s.i := rfl
@[simp] theorem State.setSt_pc (s : State) (b : Byte) : (s.setSt b).pc = s.pc := rfl
@[simp] theorem State.setSt_stack (s : State) (b : Byte) : (s.setSt b).stack = s.stack := rfl
@[simp] theorem State.setSt_sp (s : State) (b : Byte) : (s.setSt b).sp = s.sp := rfl
@[simp] theorem State.setSt_dt (s : State) (b : Byte) : (s.setSt b).dt = s.dt := rfl
@[simp] theorem State.setSt_st (s : State) (b : Byte) : (s.setSt b).st = b := rfl
@[simp] theorem State.setSt_mem (s : State) (b : Byte) : (s.setSt b).mem = s.mem := rfl
@[simp] theorem State.setSt_fb (s : State) (b : Byte) : (s.setSt b).fb = s.fb := rfl
@[simp] theorem State.setSt_fault (s : State) (b : Byte) : (s.setSt b).fault = s.fault := rfl
@[simp] theorem State.setSt_keys (s : State) (b : Byte) : (s.setSt b).keys = s.keys := rfl
@[simp] theorem State.setSt_rand (s : State) (b : Byte) : (s.setSt b).rand = s.rand := rfl
@[simp] theorem State.setSt_draws (s : State) (b : Byte) : (s.setSt b).draws = s.draws := rfl
@[simp] theorem State.setSt_repaints (s : State) (b : Byte) : (s.setSt b).repaints = s.repaints := rfl
@[simp] theorem State.setSt_loadReport (s : State) (b : Byte) : (s.setSt b).loadReport = s.loadReport := rfl
@[simp] theorem State.setSt_started (s : State) (b : Byte) : (s.setSt b).started = s.started := rfl
@[simp] theorem State.setSt_driver (s : State) (b : Byte) : (s.setSt b).driver = s.driver := rfl
@[simp] theorem State.setSt_params (s : State) (b : Byte) : (s.setSt b).params = s.params := rfl
@[simp] theorem State.setSt_reg (s : State) (b : Byte) (x : Reg) : (s.setSt b).reg x = s.reg x := rfl
@[simp] theorem State.setSt_byteAt (s : State) (b : Byte) (p : Nat) : (s.setSt b).byteAt p = s.byteAt p := rfl
@[simp] theorem State.setSt_pixel (s : State) (b : Byte) (px py : Nat) : (s.setSt b).pixel px py = s.pixel px py := rfl

/-! ### setFb -/

@[simp] theorem State.setFb_v (s : State) (fb : Framebuffer) : (s.setFb fb).v = s.v := rfl
@[simp] theorem State.setFb_i (s : State) (fb : Framebuffer) : (s.setFb fb).i = s.i := rfl
@[simp] theorem State.setFb_pc (s : State) (fb : Framebuffer) : (s.setFb fb).pc = s.pc := rfl
@[simp] theorem State.setFb_stack (s : State) (fb : Framebuffer) : (s.setFb fb).stack = s.stack := rfl
@[simp] theorem State.setFb_sp (s : State) (fb : Framebuffer) : (s.setFb fb).sp = s.sp := rfl
@[simp] theorem State.setFb_dt (s : State) (fb : Framebuffer) : (s.setFb fb).dt = s.dt := rfl
@[simp] theorem State.setFb_st (s : State) (fb : Framebuffer) : (s.setFb fb).st = s.st := rfl
@[simp] theorem State.setFb_mem (s : State) (fb : Framebuffer) : (s.setFb fb).mem = s.mem := rfl
@[simp] theorem State.setFb_fb (s : State) (fb : Framebuffer) : (s.setFb fb).fb = fb := rfl
@[simp] theorem State.setFb_fault (s : State) (fb : Framebuffer) : (s.setFb fb).fault = s.fault := rfl
@[simp] theorem State.setFb_keys (s : State) (fb : Framebuffer) : (s.setFb fb).keys = s.keys := rfl
@[simp] theorem State.setFb_rand (s : State) (fb : Framebuffer) : (s.setFb fb).rand = s.rand := rfl
@[simp] theorem State.setFb_draws (s : State) (fb : Framebuffer) : (s.setFb fb).draws = s.draws := rfl
@[simp] theorem State.setFb_repaints (s : State) (fb : Framebuffer) : (s.setFb fb).repaints = s.repaints := rfl
@[simp] theorem State.setFb_loadReport (s : State) (fb : Framebuffer) : (s.setFb fb).loadReport = s.loadReport := rfl
@[simp] theorem State.setFb_started (s : State) (fb : Framebuffer) : (s.setFb fb).started = s.started := rfl
@[simp] theorem State.setFb_driver (s : State) (fb : Framebuffer) : (s.setFb fb).driver = s.driver := rfl
@[simp] theorem State.setFb_params (s : State) (fb : Framebuffer) : (s.setFb fb).params = s.params := rfl
@[simp] theorem State.setFb_reg (s : State) (fb : Framebuffer) (x : Reg) : (s.setFb fb).reg x = s.reg x := rfl
@[simp] theorem State.setFb_byteAt (s : State) (fb : Framebuffer) (p : Nat) : (s.setFb fb).byteAt p = s.byteAt p := rfl

/-! ### emitRepaint -/

@[simp] theorem State.emitRepaint_v (s : State) : (s.emitRepaint).v = s.v := rfl
@[simp] theorem State.emitRepaint_i (s : State) : (s.emitRepaint).i = s.i := rfl
@[simp] theorem State.emitRepaint_pc (s : State) : (s.emitRepaint).pc = s.pc := rfl
@[simp] theorem State.emitRepaint_stack (s : State) : (s.emitRepaint).stack = s.stack := rfl
@[simp] theorem State.emitRepaint_sp (s : State) : (s.emitRepaint).sp = s.sp := rfl
@[simp] theorem State.emitRepaint_dt (s : State) : (s.emitRepaint).dt = s.dt := rfl
@[simp] theorem State.emitRepaint_st (s : State) : (s.emitRepaint).st = s.st := rfl
@[simp] theorem State.emitRepaint_mem (s : State) : (s.emitRepaint).mem = s.mem := rfl
@[simp] theorem State.emitRepaint_fb (s : State) : (s.emitRepaint).fb = s.fb := rfl
@[simp] theorem State.emitRepaint_fault (s : State) : (s.emitRepaint).fault = s.fault := rfl
@[simp] theorem State.emitRepaint_keys (s : State) : (s.emitRepaint).keys = s.keys := rfl
@[simp] theorem State.emitRepaint_rand (s : State) : (s.emitRepaint).rand = s.rand := rfl
@[simp] theorem State.emitRepaint_draws (s : State) : (s.emitRepaint).draws = s.draws := rfl
@[simp] theorem State.emitRepaint_repaints (s : State) : (s.emitRepaint).repaints = s.repaints + 1 := rfl
@[simp] theorem State.emitRepaint_loadReport (s : State) : (s.emitRepaint).loadReport = s.loadReport := rfl
@[simp] theorem State.emitRepaint_started (s : State) : (s.emitRepaint).started = s.started := rfl
@[simp] theorem State.emitRepaint_driver (s : State) : (s.emitRepaint).driver = s.driver := rfl
@[simp] theorem State.emitRepaint_params (s : State) : (s.emitRepaint).params = s.params := rfl
@[simp] theorem State.emitRepaint_reg (s : State) (x : Reg) : (s.emitRepaint).reg x = s.reg x := rfl
@[simp] theorem State.emitRepaint_byteAt (s : State) (p : Nat) : (s.emitRepaint).byteAt p = s.byteAt p := rfl
@[simp] theorem State.emitRepaint_pixel (s : State) (px py : Nat) : (s.emitRepaint).pixel px py = s.pixel px py := rfl

/-! ### raise -/

@[simp] theorem State.raise_v (s : State) (f : Fault) (w : Option Word) : (s.raise f w).v = s.v := rfl
@[simp] theorem State.raise_i (s : State) (f : Fault) (w : Option Word) : (s.raise f w).i = s.i := rfl
@[simp] theorem State.raise_pc (s : State) (f : Fault) (w : Option Word) : (s.raise f w).pc = s.pc := rfl
@[simp] theorem State.raise_stack (s : State) (f : Fault) (w : Option Word) : (s.raise f w).stack = s.stack := rfl
@[simp] theorem State.raise_sp (s : State) (f : Fault) (w : Option Word) : (s.raise f w).sp = s.sp := rfl
@[simp] theorem State.raise_dt (s : State) (f : Fault) (w : Option Word) : (s.raise f w).dt = s.dt := rfl
@[simp] theorem State.raise_st (s : State) (f : Fault) (w : Option Word) : (s.raise f w).st = s.st := rfl
@[simp] theorem State.raise_mem (s : State) (f : Fault) (w : Option Word) : (s.raise f w).mem = s.mem := rfl
@[simp] theorem State.raise_fb (s : State) (f : Fault) (w : Option Word) : (s.raise f w).fb = s.fb := rfl
@[simp] theorem State.raise_fault (s : State) (f : Fault) (w : Option Word) : (s.raise f w).fault = some { kind := f, pc := s.pc, opcode := w } := rfl
@[simp] theorem State.raise_keys (s : State) (f : Fault) (w : Option Word) : (s.raise f w).keys = s.keys := rfl
@[simp] theorem State.raise_rand (s : State) (f : Fault) (w : Option Word) : (s.raise f w).rand = s.rand := rfl
@[simp] theorem State.raise_draws (s : State) (f : Fault) (w : Option Word) : (s.raise f w).draws = s.draws := rfl
@[simp] theorem State.raise_repaints (s : State) (f : Fault) (w : Option Word) : (s.raise f w).repaints = s.repaints := rfl
@[simp] theorem State.raise_loadReport (s : State) (f : Fault) (w : Option Word) : (s.raise f w).loadReport = s.loadReport := rfl
@[simp] theorem State.raise_started (s : State) (f : Fault) (w : Option Word) : (s.raise f w).started = s.started := rfl
@[simp] theorem State.raise_driver (s : State) (f : Fault) (w : Option Word) : (s.raise f w).driver = s.driver := rfl
@[simp] theorem State.raise_params (s : State) (f : Fault) (w : Option Word) : (s.raise f w).params = s.params := rfl
@[simp] theorem State.raise_reg (s : State) (f : Fault) (w : Option Word) (x : Reg) : (s.raise f w).reg x = s.reg x := rfl
@[simp] theorem State.raise_byteAt (s : State) (f : Fault) (w : Option Word) (p : Nat) : (s.raise f w).byteAt p = s.byteAt p := rfl
@[simp] theorem State.raise_pixel (s : State) (f : Fault) (w : Option Word) (px py : Nat) : (s.raise f w).pixel px py = s.pixel px py := rfl

/-! ### storeBytes -/

@[simp] theorem State.storeBytes_v (s : State) (a : Nat) (bs : List Byte) : (s.storeBytes a bs).v = s.v := rfl
@[simp] theorem State.storeBytes_i (s : State) (a : Nat) (bs : List Byte) : (s.storeBytes a bs).i = s.i := rfl
@[simp] theorem State.storeBytes_pc (s : State) (a : Nat) (bs : List Byte) : (s.storeBytes a bs).pc = s.pc := rfl
@[simp] theorem State.storeBytes_stack (s : State) (a : Nat) (bs : List Byte) : (s.storeBytes a bs).stack = s.stack := rfl
@[simp] theorem State.storeBytes_sp (s : State) (a : Nat) (bs : List Byte) : (s.storeBytes a bs).sp = s.sp := rfl
@[simp] theorem State.storeBytes_dt (s : State) (a : Nat) (bs : List Byte) : (s.storeBytes a bs).dt = s.dt := rfl
@[simp] theorem State.storeBytes_st (s : State) (a : Nat) (bs : List Byte) : (s.storeBytes a bs).st = s.st := rfl
@[simp] theorem State.storeBytes_mem (s : State) (a : Nat) (bs : List Byte) : (s.storeBytes a bs).mem = Memory.writeBytes (unlistedByte s.params) s.mem a bs := rfl
@[simp] theorem State.storeBytes_fb (s : State) (a : Nat) (bs : List Byte) : (s.storeBytes a bs).fb = s.fb := rfl
@[simp] theorem State.storeBytes_fault (s : State) (a : Nat) (bs : List Byte) : (s.storeBytes a bs).fault = s.fault := rfl
@[simp] theorem State.storeBytes_keys (s : State) (a : Nat) (bs : List Byte) : (s.storeBytes a bs).keys = s.keys := rfl
@[simp] theorem State.storeBytes_rand (s : State) (a : Nat) (bs : List Byte) : (s.storeBytes a bs).rand = s.rand := rfl
@[simp] theorem State.storeBytes_draws (s : State) (a : Nat) (bs : List Byte) : (s.storeBytes a bs).draws = s.draws := rfl
@[simp] theorem State.storeBytes_repaints (s : State) (a : Nat) (bs : List Byte) : (s.storeBytes a bs).repaints = s.repaints := rfl
@[simp] theorem State.storeBytes_loadReport (s : State) (a : Nat) (bs : List Byte) : (s.storeBytes a bs).loadReport = s.loadReport := rfl
@[simp] theorem State.storeBytes_started (s : State) (a : Nat) (bs : List Byte) : (s.storeBytes a bs).started = s.started := rfl
@[simp] theorem State.storeBytes_driver (s : State) (a : Nat) (bs : List Byte) : (s.storeBytes a bs).driver = s.driver := rfl
@[simp] theorem State.storeBytes_params (s : State) (a : Nat) (bs : List Byte) : (s.storeBytes a bs).params = s.params := rfl
@[simp] theorem State.storeBytes_reg (s : State) (a : Nat) (bs : List Byte) (x : Reg) : (s.storeBytes a bs).reg x = s.reg x := rfl
@[simp] theorem State.storeBytes_pixel (s : State) (a : Nat) (bs : List Byte) (px py : Nat) : (s.storeBytes a bs).pixel px py = s.pixel px py := rfl

/-! ### consumeRandom -/

@[simp] theorem State.consumeRandom_v (s : State) : s.consumeRandom.v = s.v := by
  unfold State.consumeRandom; split <;> rfl
@[simp] theorem State.consumeRandom_i (s : State) : s.consumeRandom.i = s.i := by
  unfold State.consumeRandom; split <;> rfl
@[simp] theorem State.consumeRandom_pc (s : State) : s.consumeRandom.pc = s.pc := by
  unfold State.consumeRandom; split <;> rfl
@[simp] theorem State.consumeRandom_stack (s : State) : s.consumeRandom.stack = s.stack := by
  unfold State.consumeRandom; split <;> rfl
@[simp] theorem State.consumeRandom_sp (s : State) : s.consumeRandom.sp = s.sp := by
  unfold State.consumeRandom; split <;> rfl
@[simp] theorem State.consumeRandom_dt (s : State) : s.consumeRandom.dt = s.dt := by
  unfold State.consumeRandom; split <;> rfl
@[simp] theorem State.consumeRandom_st (s : State) : s.consumeRandom.st = s.st := by
  unfold State.consumeRandom; split <;> rfl
@[simp] theorem State.consumeRandom_mem (s : State) : s.consumeRandom.mem = s.mem := by
  unfold State.consumeRandom; split <;> rfl
@[simp] theorem State.consumeRandom_fb (s : State) : s.consumeRandom.fb = s.fb := by
  unfold State.consumeRandom; split <;> rfl
@[simp] theorem State.consumeRandom_fault (s : State) : s.consumeRandom.fault = s.fault := by
  unfold State.consumeRandom; split <;> rfl
@[simp] theorem State.consumeRandom_keys (s : State) : s.consumeRandom.keys = s.keys := by
  unfold State.consumeRandom; split <;> rfl
@[simp] theorem State.consumeRandom_repaints (s : State) : s.consumeRandom.repaints = s.repaints := by
  unfold State.consumeRandom; split <;> rfl
@[simp] theorem State.consumeRandom_loadReport (s : State) : s.consumeRandom.loadReport = s.loadReport := by
  unfold State.consumeRandom; split <;> rfl
@[simp] theorem State.consumeRandom_started (s : State) : s.consumeRandom.started = s.started := by
  unfold State.consumeRandom; split <;> rfl
@[simp] theorem State.consumeRandom_driver (s : State) : s.consumeRandom.driver = s.driver := by
  unfold State.consumeRandom; split <;> rfl
@[simp] theorem State.consumeRandom_params (s : State) : s.consumeRandom.params = s.params := by
  unfold State.consumeRandom; split <;> rfl
@[simp] theorem State.consumeRandom_reg (s : State) (x : Reg) : s.consumeRandom.reg x = s.reg x := by
  simp [State.reg]
@[simp] theorem State.consumeRandom_byteAt (s : State) (p : Nat) : s.consumeRandom.byteAt p = s.byteAt p := by
  simp [State.byteAt]
theorem State.consumeRandom_of_supplied {s : State} {b : Byte} {bs : List Byte} (h : s.rand = b :: bs) :
    s.nextRandom = b ∧ s.consumeRandom = { s with rand := bs } := by
  simp [State.nextRandom, State.consumeRandom, h]
theorem State.consumeRandom_of_none {s : State} (h : s.rand = []) :
    s.nextRandom = Config.freeRandomByte s.draws ∧ s.consumeRandom = { s with draws := s.draws + 1 } := by
  simp [State.nextRandom, State.consumeRandom, h]

/-! ### Registers -/

/-- A register reads as written, and every other register as before. -/
theorem State.setReg_reg (s : State) (r x : Reg) (b : Byte) :
    (s.setReg r b).reg x = if x = r then b else s.reg x := by
  simp only [State.reg, State.setReg, Fin.getElem_fin, Vector.getElem_set, Fin.ext_iff, eq_comm]

@[simp] theorem State.setReg_reg_self (s : State) (r : Reg) (b : Byte) : (s.setReg r b).reg r = b := by
  simp [State.setReg_reg]

theorem State.setReg_reg_of_ne (s : State) {r x : Reg} (b : Byte) (h : x ≠ r) :
    (s.setReg r b).reg x = s.reg x := by
  simp [State.setReg_reg, h]

/-- The flag is written first and the result second (42_load_arithmetic.md R121). -/
theorem State.setFlagThenReg_reg (s : State) (f : Byte) (d x : Reg) (b : Byte) :
    (s.setFlagThenReg f d b).reg x = if x = d then b else if x = vF then f else s.reg x := by
  simp [State.setFlagThenReg, State.setReg_reg]

@[simp] theorem State.setFlagThenReg_i (s : State) (f : Byte) (d : Reg) (b : Byte) :
    (s.setFlagThenReg f d b).i = s.i := rfl
@[simp] theorem State.setFlagThenReg_pc (s : State) (f : Byte) (d : Reg) (b : Byte) :
    (s.setFlagThenReg f d b).pc = s.pc := rfl
@[simp] theorem State.setFlagThenReg_stack (s : State) (f : Byte) (d : Reg) (b : Byte) :
    (s.setFlagThenReg f d b).stack = s.stack := rfl
@[simp] theorem State.setFlagThenReg_sp (s : State) (f : Byte) (d : Reg) (b : Byte) :
    (s.setFlagThenReg f d b).sp = s.sp := rfl
@[simp] theorem State.setFlagThenReg_dt (s : State) (f : Byte) (d : Reg) (b : Byte) :
    (s.setFlagThenReg f d b).dt = s.dt := rfl
@[simp] theorem State.setFlagThenReg_st (s : State) (f : Byte) (d : Reg) (b : Byte) :
    (s.setFlagThenReg f d b).st = s.st := rfl
@[simp] theorem State.setFlagThenReg_mem (s : State) (f : Byte) (d : Reg) (b : Byte) :
    (s.setFlagThenReg f d b).mem = s.mem := rfl
@[simp] theorem State.setFlagThenReg_fb (s : State) (f : Byte) (d : Reg) (b : Byte) :
    (s.setFlagThenReg f d b).fb = s.fb := rfl
@[simp] theorem State.setFlagThenReg_fault (s : State) (f : Byte) (d : Reg) (b : Byte) :
    (s.setFlagThenReg f d b).fault = s.fault := rfl
@[simp] theorem State.setFlagThenReg_keys (s : State) (f : Byte) (d : Reg) (b : Byte) :
    (s.setFlagThenReg f d b).keys = s.keys := rfl
@[simp] theorem State.setFlagThenReg_rand (s : State) (f : Byte) (d : Reg) (b : Byte) :
    (s.setFlagThenReg f d b).rand = s.rand := rfl
@[simp] theorem State.setFlagThenReg_draws (s : State) (f : Byte) (d : Reg) (b : Byte) :
    (s.setFlagThenReg f d b).draws = s.draws := rfl
@[simp] theorem State.setFlagThenReg_repaints (s : State) (f : Byte) (d : Reg) (b : Byte) :
    (s.setFlagThenReg f d b).repaints = s.repaints := rfl
@[simp] theorem State.setFlagThenReg_loadReport (s : State) (f : Byte) (d : Reg) (b : Byte) :
    (s.setFlagThenReg f d b).loadReport = s.loadReport := rfl
@[simp] theorem State.setFlagThenReg_started (s : State) (f : Byte) (d : Reg) (b : Byte) :
    (s.setFlagThenReg f d b).started = s.started := rfl
@[simp] theorem State.setFlagThenReg_driver (s : State) (f : Byte) (d : Reg) (b : Byte) :
    (s.setFlagThenReg f d b).driver = s.driver := rfl
@[simp] theorem State.setFlagThenReg_params (s : State) (f : Byte) (d : Reg) (b : Byte) :
    (s.setFlagThenReg f d b).params = s.params := rfl
@[simp] theorem State.setFlagThenReg_byteAt (s : State) (f : Byte) (d : Reg) (b : Byte) (p : Nat) :
    (s.setFlagThenReg f d b).byteAt p = s.byteAt p := rfl

end Sys2Proof.Machine
end

