-- ==== Sys2Proof/Laws/Memory.lean ====
section
/-! SUPPORT. Memory as data: a byte reads as it was last written, every write keeps the canonical form, and canonical
memories that read alike are equal. -/

namespace Sys2Proof.Machine

theorem Memory.find_insert (m : Memory) (a p : Nat) (b : Byte) :
    Memory.find (Memory.insert m a b) p = if p = a then some b else Memory.find m p := by
  induction m with
  | nil => simp [Memory.insert, Memory.find, eq_comm]
  | cons c m ih =>
    obtain ⟨k, c⟩ := c
    simp only [Memory.insert]
    split
    · simp only [Memory.find, eq_comm]
    · split
      · subst_vars; simp only [Memory.find, eq_comm]; split <;> simp_all
      · simp only [Memory.find, ih]; split <;> split <;> simp_all

theorem Memory.find_erase (m : Memory) (a p : Nat) :
    Memory.find (Memory.erase m a) p = if p = a then none else Memory.find m p := by
  induction m with
  | nil => simp [Memory.erase, Memory.find]
  | cons c m ih =>
    obtain ⟨k, c⟩ := c
    simp only [Memory.erase]
    split
    · next h =>
      subst h
      rw [ih]
      by_cases hp : p = k
      · simp [hp]
      · simp [hp, Memory.find, Ne.symm hp]
    · simp only [Memory.find, ih]; split <;> split <;> simp_all

/-- A byte reads as written, and every other byte as before (20_memory.md R59). -/
theorem Memory.read_write (base : Nat → Byte) (m : Memory) (a p : Nat) (b : Byte) :
    Memory.read base (Memory.write base m a b) p = if p = a then b else Memory.read base m p := by
  unfold Memory.write Memory.read
  split
  · simp only [Memory.find_erase]; split <;> simp_all
  · simp only [Memory.find_insert]; split <;> simp_all

/-- Bytes written in ascending order read as written, and every other byte as before. -/
theorem Memory.read_writeBytes (base : Nat → Byte) (bs : List Byte) (m : Memory) (a p : Nat) :
    Memory.read base (Memory.writeBytes base m a bs) p =
      if h : a ≤ p ∧ p < a + bs.length then bs[p - a]'(by omega) else Memory.read base m p := by
  induction bs generalizing m a with
  | nil => simp only [Memory.writeBytes, List.length_nil]; split <;> [omega; rfl]
  | cons b bs ih =>
    simp only [Memory.writeBytes, ih, List.length_cons, Memory.read_write]
    by_cases hp : p = a
    · subst hp; simp
    · by_cases h1 : a + 1 ≤ p ∧ p < a + 1 + bs.length
      · have h2 : a ≤ p ∧ p < a + (bs.length + 1) := by omega
        rw [dif_pos h1, dif_pos h2]
        have : p - a = (p - (a + 1)) + 1 := by omega
        simp [this]
      · have h2 : ¬ (a ≤ p ∧ p < a + (bs.length + 1)) := by omega
        rw [dif_neg h1, dif_neg h2, if_neg hp]

theorem Memory.mem_erase {m : Memory} {a : Nat} {c : Host.Cell} (h : c ∈ Memory.erase m a) : c ∈ m := by
  induction m with
  | nil => simp [Memory.erase] at h
  | cons d m ih =>
    obtain ⟨k, d⟩ := d
    simp only [Memory.erase] at h
    split at h
    · exact List.mem_cons_of_mem _ (ih h)
    · rcases List.mem_cons.1 h with rfl | h
      · exact List.mem_cons_self
      · exact List.mem_cons_of_mem _ (ih h)

theorem Memory.mem_insert {m : Memory} {a : Nat} {b : Byte} {c : Host.Cell} (h : c ∈ Memory.insert m a b) :
    c = (a, b) ∨ c ∈ m := by
  induction m with
  | nil => simpa [Memory.insert] using h
  | cons d m ih =>
    obtain ⟨k, d⟩ := d
    simp only [Memory.insert] at h
    split at h
    · simpa using h
    · split at h
      · rcases List.mem_cons.1 h with rfl | h
        · exact .inl rfl
        · exact .inr (List.mem_cons_of_mem _ h)
      · rcases List.mem_cons.1 h with rfl | h
        · exact .inr List.mem_cons_self
        · exact (ih h).imp_right (List.mem_cons_of_mem _)

theorem Memory.pairwise_erase {m : Memory} (a : Nat) (h : m.Pairwise (fun c d => c.1 < d.1)) :
    (Memory.erase m a).Pairwise (fun c d => c.1 < d.1) := by
  induction m with
  | nil => simp [Memory.erase]
  | cons d m ih =>
    obtain ⟨k, d⟩ := d
    rw [List.pairwise_cons] at h
    simp only [Memory.erase]
    split
    · exact ih h.2
    · exact List.pairwise_cons.2 ⟨fun c hc => h.1 c (Memory.mem_erase hc), ih h.2⟩

theorem Memory.pairwise_insert {m : Memory} (a : Nat) (b : Byte) (h : m.Pairwise (fun c d => c.1 < d.1)) :
    (Memory.insert m a b).Pairwise (fun c d => c.1 < d.1) := by
  induction m with
  | nil => simp [Memory.insert]
  | cons d m ih =>
    obtain ⟨k, d⟩ := d
    have h' := List.pairwise_cons.1 h
    simp only [Memory.insert]
    split
    · next hk =>
      refine List.pairwise_cons.2 ⟨fun c hc => ?_, h⟩
      rcases List.mem_cons.1 hc with rfl | hc
      · exact hk
      · exact Nat.lt_trans hk (h'.1 c hc)
    · split
      · next hk => subst hk; exact List.pairwise_cons.2 ⟨h'.1, h'.2⟩
      · refine List.pairwise_cons.2 ⟨fun c hc => ?_, ih h'.2⟩
        rcases Memory.mem_insert hc with rfl | hc
        · show k < a; omega
        · exact h'.1 c hc

/-- Writing a byte of the address space keeps the canonical form. -/
theorem Memory.wf_write {base : Nat → Byte} {m : Memory} (h : Memory.wf base m) {a : Nat} (ha : a ≤ 0xFFF)
    (b : Byte) : Memory.wf base (Memory.write base m a b) := by
  unfold Memory.write
  split
  · exact ⟨Memory.pairwise_erase a h.1, fun c hc => h.2 c (Memory.mem_erase hc)⟩
  · next hb =>
    refine ⟨Memory.pairwise_insert a b h.1, fun c hc => ?_⟩
    rcases Memory.mem_insert hc with rfl | hc
    · exact ⟨ha, hb⟩
    · exact h.2 c hc

/-- Writing bytes of the address space keeps the canonical form. -/
theorem Memory.wf_writeBytes {base : Nat → Byte} {m : Memory} (h : Memory.wf base m) {a : Nat} {bs : List Byte}
    (ha : a + bs.length ≤ 0x1000) : Memory.wf base (Memory.writeBytes base m a bs) := by
  induction bs generalizing m a with
  | nil => exact h
  | cons b bs ih =>
    simp only [List.length_cons] at ha
    exact ih (Memory.wf_write h (by omega) b) (by omega)

/-- Every entry after a write was there before or is one of the bytes written. -/
theorem Memory.mem_writeBytes {base : Nat → Byte} {m : Memory} {a : Nat} {bs : List Byte} {c : Host.Cell}
    (h : c ∈ Memory.writeBytes base m a bs) : c ∈ m ∨ a ≤ c.1 := by
  induction bs generalizing m a with
  | nil => exact .inl h
  | cons b bs ih =>
    rcases ih h with h | h
    · unfold Memory.write at h
      split at h
      · exact .inl (Memory.mem_erase h)
      · rcases Memory.mem_insert h with rfl | h
        · exact .inr (Nat.le_refl _)
        · exact .inl h
    · exact .inr (by omega)

/-- The memory of `State.reset` is canonical. -/
theorem State.reset_mem_wf : Memory.wf (unlistedByte State.reset.params) State.reset.mem := by
  show Memory.wf _ []
  simp [Memory.wf]

/-- Bytes stored read as stored, and every other byte as before. -/
theorem State.storeBytes_byteAt (s : State) (a p : Nat) (bs : List Byte) :
    (s.storeBytes a bs).byteAt p =
      if h : a ≤ p ∧ p < a + bs.length then bs[p - a]'(by omega) else s.byteAt p :=
  Memory.read_writeBytes _ bs s.mem a p

/-- Outside the bytes stored, memory reads as before. -/
theorem State.storeBytes_byteAt_of_outside (s : State) {a p : Nat} {bs : List Byte}
    (h : p < a ∨ a + bs.length ≤ p) : (s.storeBytes a bs).byteAt p = s.byteAt p := by
  rw [State.storeBytes_byteAt, dif_neg (by omega)]

end Sys2Proof.Machine
end

