-- ==== Sys2Proof/Laws/Ops.lean ====
section
/-! SUPPORT. For each shared operation, one lemma that says what it can answer. -/

namespace Sys2Proof.Machine

/-! ### Checks -/

/-- The check passes iff every address of the range passes (20_memory.md R60). -/
theorem firstFault_eq_none (check : Nat → Option Fault) (a len : Nat) :
    firstFault check a len = none ↔ ∀ k < len, check (a + k) = none := by
  induction len generalizing a with
  | zero => simp [firstFault]
  | succ n ih =>
    simp only [firstFault]
    split
    · next f hf =>
      refine ⟨fun h => by simp at h, fun h => ?_⟩
      have := h 0 (by omega)
      simp [hf] at this
    · next hf =>
      rw [ih]
      refine ⟨fun h k hk => ?_, fun h k hk => ?_⟩
      · cases k with
        | zero => simpa using hf
        | succ k => simpa [Nat.add_assoc, Nat.add_comm 1] using h k (by omega)
      · simpa [Nat.add_assoc, Nat.add_comm 1] using h (k + 1) (by omega)

/-- The check fails with the fault of the lowest address that has one (20_memory.md R60). -/
theorem firstFault_eq_some (check : Nat → Option Fault) (a len : Nat) (f : Fault) :
    firstFault check a len = some f ↔
      ∃ k < len, check (a + k) = some f ∧ ∀ j < k, check (a + j) = none := by
  induction len generalizing a with
  | zero => simp [firstFault]
  | succ n ih =>
    simp only [firstFault]
    split
    · next g hg =>
      constructor
      · intro h
        cases h
        exact ⟨0, by omega, by simpa using hg, by omega⟩
      · rintro ⟨k, -, hk, hj⟩
        cases k with
        | zero => simpa [hg] using hk
        | succ k => simpa [hg] using hj 0 (by omega)
    · next hg =>
      rw [ih]
      constructor
      · rintro ⟨k, hk, h, hj⟩
        refine ⟨k + 1, by omega, by simpa [Nat.add_assoc, Nat.add_comm 1] using h, fun j hj' => ?_⟩
        cases j with
        | zero => simpa using hg
        | succ j => simpa [Nat.add_assoc, Nat.add_comm 1] using hj j (by omega)
      · rintro ⟨k, hk, h, hj⟩
        cases k with
        | zero => simp [hg] at h
        | succ k =>
          exact ⟨k, by omega, by simpa [Nat.add_assoc, Nat.add_comm 1] using h,
            fun j hj' => by simpa [Nat.add_assoc, Nat.add_comm 1] using hj (j + 1) (by omega)⟩

/-- `MemRead` faults exactly above 0xFFF (20_memory.md R52). -/
theorem memReadFault_eq_none (a : Nat) : memReadFault a = none ↔ a ≤ 0xFFF := by
  simp [memReadFault]

/-- `MemWrite` faults exactly above 0xFFF and at or below 0x04F (20_memory.md R53). -/
theorem memWriteFault_eq_none (a : Nat) : memWriteFault a = none ↔ 0x50 ≤ a ∧ a ≤ 0xFFF := by
  unfold memWriteFault
  split
  · simp; omega
  · split <;> simp <;> omega

/-- A range of reads passes iff its last address is in the address space. -/
theorem firstFault_read_eq_none (a len : Nat) :
    firstFault memReadFault a len = none ↔ len = 0 ∨ a + len ≤ 0x1000 := by
  simp only [firstFault_eq_none, memReadFault_eq_none]
  refine ⟨fun h => ?_, fun h k hk => by omega⟩
  rcases len with _ | n
  · exact .inl rfl
  · have := h n (by omega); omega

/-- A range of writes passes iff it starts above the glyph table and ends in the address space. -/
theorem firstFault_write_eq_none (a len : Nat) :
    firstFault memWriteFault a len = none ↔ len = 0 ∨ 0x50 ≤ a ∧ a + len ≤ 0x1000 := by
  simp only [firstFault_eq_none, memWriteFault_eq_none]
  refine ⟨fun h => ?_, fun h k hk => by omega⟩
  rcases len with _ | n
  · exact .inl rfl
  · have h0 := h 0 (by omega); have hn := h n (by omega); omega

/-- A failing range of reads names the lowest address above 0xFFF. -/
theorem firstFault_read_eq_some {a len : Nat} (h0 : len ≠ 0) (h : 0x1000 < a + len) :
    firstFault memReadFault a len = some (.outOfBoundsAccess (max a 0x1000)) := by
  rw [firstFault_eq_some]
  refine ⟨max a 0x1000 - a, by omega, ?_, fun j hj => (memReadFault_eq_none _).2 (by omega)⟩
  have : a + (max a 0x1000 - a) = max a 0x1000 := by omega
  rw [this, memReadFault, if_pos (by omega)]

/-- A failing range of writes names its first address when that is protected (60_exceptions.md R202). -/
theorem firstFault_write_eq_protected {a len : Nat} (h0 : len ≠ 0) (h : a ≤ 0x4F) :
    firstFault memWriteFault a len = some (.protectedWrite a) := by
  rw [firstFault_eq_some]
  refine ⟨0, by omega, ?_, by omega⟩
  simp only [memWriteFault, Nat.add_zero]
  rw [if_neg (by omega), if_pos h]

/-- A failing range of writes above the glyph table names the lowest address above 0xFFF. -/
theorem firstFault_write_eq_outOfBounds {a len : Nat} (h0 : len ≠ 0) (h1 : 0x4F < a) (h : 0x1000 < a + len) :
    firstFault memWriteFault a len = some (.outOfBoundsAccess (max a 0x1000)) := by
  rw [firstFault_eq_some]
  refine ⟨max a 0x1000 - a, by omega, ?_, fun j hj => (memWriteFault_eq_none _).2 (by omega)⟩
  have : a + (max a 0x1000 - a) = max a 0x1000 := by omega
  rw [this, memWriteFault, if_pos (by omega)]

/-! ### Fetch -/

/-- A fetch succeeds iff PC ≤ 0xFFE, and reads two bytes, the first the high one (20_memory.md R54). -/
theorem State.fetch_ok {s : State} (h : s.pc.toNat ≤ 0xFFE) :
    s.fetch = .ok (wordOfBytes (s.byteAt s.pc.toNat) (s.byteAt (s.pc.toNat + 1))) := by
  rw [State.fetch, (firstFault_read_eq_none _ 2).2 (by omega)]

/-- A failing fetch names PC, or 0x1000 when PC = 0xFFF (20_memory.md R54). -/
theorem State.fetch_error {s : State} (h : 0xFFE < s.pc.toNat) :
    s.fetch = .error (.outOfBoundsAccess (max s.pc.toNat 0x1000)) := by
  rw [State.fetch, firstFault_read_eq_some (by omega) (by omega)]

/-! ### Stack -/

/-- `Push` below the capacity (10_state.md R26). -/
theorem State.push_ok {s : State} (h : s.sp.val < 16) (a : Word) :
    s.push a = .ok { s with stack := s.stack.set s.sp.val a, sp := ⟨s.sp.val + 1, by omega⟩ } := by
  simp [State.push, h]

/-- `Push` at the capacity (10_state.md R26). -/
theorem State.push_error {s : State} (h : s.sp.val = 16) (a : Word) : s.push a = .error .stackOverflow := by
  simp [State.push, h]

/-- `Pop` of a stack that is not empty (10_state.md R26). -/
theorem State.pop_ok {s : State} (h : s.sp.val ≠ 0) :
    s.pop = .ok (s.stack[s.sp.val - 1], { s with sp := ⟨s.sp.val - 1, by omega⟩ }) := by
  simp [State.pop, h]

/-- `Pop` of an empty stack (10_state.md R26). -/
theorem State.pop_error {s : State} (h : s.sp.val = 0) : s.pop = .error .stackUnderflow := by
  simp [State.pop, h]

/-! ### Keys -/

theorem State.keyOf_ok {s : State} {x : Reg} (h : (s.reg x).toNat < 16) :
    s.keyOf x = .ok (s.keys[(s.reg x).toNat]) := by simp [State.keyOf, h]

theorem State.keyOf_error {s : State} {x : Reg} (h : 15 < (s.reg x).toNat) :
    s.keyOf x = .error (.invalidKeyIndex (s.reg x)) := by
  simp [State.keyOf, show ¬ (s.reg x).toNat < 16 by omega]

/-! ### Framebuffer -/

/-- A pixel reads as written, and every other pixel as before; coordinates are reduced (10_state.md R30). -/
theorem Framebuffer.pixel_setPixel (fb : Framebuffer) (px py qx qy : Nat) (b : Bool) :
    Framebuffer.pixel (Framebuffer.setPixel fb px py b) qx qy =
      if qx % 64 = px % 64 ∧ qy % 32 = py % 32 then b else Framebuffer.pixel fb qx qy := by
  unfold Framebuffer.pixel Framebuffer.setPixel
  simp only [Vector.getElem_set]
  by_cases hy : py % 32 = qy % 32
  · simp only [hy, if_true, Vector.getElem_set]
    by_cases hx : px % 64 = qx % 64
    · simp [hx]
    · simp [hx, Ne.symm hx]
  · simp [hy, Ne.symm hy]

/-- Two framebuffers with the same pixels are equal. -/
theorem Framebuffer.ext_pixel {f g : Framebuffer}
    (h : ∀ px py, px < 64 → py < 32 → Framebuffer.pixel f px py = Framebuffer.pixel g px py) : f = g := by
  refine Vector.ext fun py hy => Vector.ext fun px hx => ?_
  have := h px py hx hy
  simpa [Framebuffer.pixel, Nat.mod_eq_of_lt hx, Nat.mod_eq_of_lt hy] using this

@[simp] theorem pixel_clearFb (px py : Nat) : Framebuffer.pixel clearFb px py = false := by
  simp [Framebuffer.pixel, clearFb]

/-! ### Register lists -/

/-- V[r] after the loads of `len` bytes from `a` (43_memory_ops.md R144). -/
theorem State.loadedRegs_get (s : State) (a len : Nat) (r : Reg) :
    (s.loadedRegs a len)[r] = if r.val < len then s.byteAt (a + r.val) else s.reg r := by
  induction len with
  | zero => simp [State.loadedRegs, State.reg]
  | succ k ih =>
    simp only [State.loadedRegs, Fin.getElem_fin, Vector.getElem_setIfInBounds] at ih ⊢
    by_cases hk : k = r.val
    · subst hk; simp
    · rw [if_neg hk, ih]
      by_cases h : r.val < k
      · rw [if_pos h, if_pos (by omega)]
      · rw [if_neg h, if_neg (by omega)]

@[simp] theorem State.regsThrough_length (s : State) (x : Reg) : (s.regsThrough x).length = x.val + 1 := by
  simp [State.regsThrough]

/-- The k-th byte LD [I] stores is V[k] (43_memory_ops.md R143). -/
theorem State.regsThrough_get (s : State) (x : Reg) (k : Nat) (h : k < (s.regsThrough x).length) :
    (s.regsThrough x)[k] = s.reg ⟨k, by simp at h; omega⟩ := by
  simp [State.regsThrough, State.reg]

/-! ### Widths -/

/-- An address operand keeps its value when it is widened (30_encoding.md R72). -/
@[simp] theorem toNat_zextAddr (nnn : BitVec 12) : (zextAddr nnn).toNat = nnn.toNat := by
  have := nnn.isLt
  simp [zextAddr]; omega

@[simp] theorem toNat_u8 (v : Nat) : (u8 v).toNat = v % 256 := by simp [u8]

@[simp] theorem toNat_u16 (v : Nat) : (u16 v).toNat = v % 65536 := by simp [u16]

/-! ### Alias policy and the ends of an instruction -/

/-- VF is among the registers x and y (42_load_arithmetic.md R121). -/
theorem vfAmong_eq_true {x y : Reg} : vfAmong x y = true ↔ x = vF ∨ y = vF := by simp [vfAmong]

/-- Where the policy lets an aliasing case run, the gate is open (42_load_arithmetic.md R121). -/
theorem aliasGate_open {s : State} {c : Bool} (h : c = false ∨ s.params.vfAliasPolicy = .snapshot)
    (out : Host.Outcome State Fault Refusal) : aliasGate s c out = out := by
  rcases h with h | h <;> simp [aliasGate, h]

/-- Under `refuse` an aliasing case is refused (42_load_arithmetic.md R121). -/
theorem aliasGate_refuse {s : State} {c : Bool} (hc : c = true) (h : s.params.vfAliasPolicy = .refuse)
    (out : Host.Outcome State Fault Refusal) : aliasGate s c out = .refused .vfAlias := by
  simp [aliasGate, hc, h]

/-- What the gate can answer. -/
theorem aliasGate_cases (s : State) (c : Bool) (out : Host.Outcome State Fault Refusal) :
    aliasGate s c out = out ∨
      c = true ∧ s.params.vfAliasPolicy = .refuse ∧ aliasGate s c out = .refused .vfAlias := by
  unfold aliasGate
  split
  · next h => simp at h; exact .inr ⟨h.1, h.2, rfl⟩
  · exact .inl rfl

@[simp] theorem endNext_eq_next (s t : State) : endNext s = .next t ↔ s.setPc (s.pc + 2) = t := by
  simp [endNext]

@[simp] theorem endSkipIf_eq_next (c : Bool) (s t : State) :
    endSkipIf c s = .next t ↔ s.setPc (s.pc + if c then 4 else 2) = t := by simp [endSkipIf]

@[simp] theorem endJump_eq_next (w : Word) (s t : State) : endJump w s = .next t ↔ s.setPc w = t := by simp [endJump]

@[simp] theorem raiseFrom_eq_next (i : Instr) (f : Fault) (s t : State) :
    raiseFrom i f s = .next t ↔ s.raise f (some (encode i)) = t := by simp [raiseFrom]

end Sys2Proof.Machine
end

