-- ==== Sys2Proof/Laws/Step.lean ====
section
/-! SUPPORT. What a step can do: one transaction, and for a Cycle the four cases of 30_encoding.md R77. -/

namespace Sys2Proof.Machine

open Sys2Proof.Safety

/-- With nothing queued a step is a Cycle. -/
theorem step_of_nil {s : State} (h : s.driver = []) : step s = cycle s := by
  simp [step, performNext, h]

/-- With a transaction queued a step performs the oldest one and leaves the rest queued. -/
theorem step_of_cons {s : State} {x : Transaction} {rest : List Transaction} (h : s.driver = x :: rest) :
    step s = perform x { s with driver := rest } := by
  simp [step, performNext, h]

/-- Where the next transaction is a Cycle, the step is that Cycle, with the rest still queued. -/
theorem step_of_cycleNext {s : State} {rest : List Transaction} (h : CycleNext s rest) :
    step s = cycle { s with driver := rest } := by
  rcases h with ⟨h, rfl⟩ | h
  · rw [step_of_nil h, ← h]
  · exact step_of_cons h

/-- A halted block's Cycle (30_encoding.md R77, 60_exceptions.md R205). -/
theorem cycle_of_halted {s : State} (h : s.fault ≠ none) : cycle s = .next s := by
  unfold cycle
  split
  · rfl
  · next hn => exact absurd hn h

/-- A running block's Cycle runs one instruction (30_encoding.md R77). -/
theorem cycle_of_running {s : State} (h : s.fault = none) : cycle s = runInstruction { s with started := true } := by
  unfold cycle
  split
  · next hn => rw [h] at hn; simp at hn
  · rfl

/-- The fetch fault (20_memory.md R54). -/
theorem runInstruction_of_fetch_error {s : State} {f : Fault} (hf : s.fetch = .error f) :
    runInstruction s = .next (s.raise f none) := by
  simp only [runInstruction, hf]

/-- A word that is no instruction (30_encoding.md R75). -/
theorem runInstruction_of_unknown {s : State} {w : Word} {e : DecodeError} (hf : s.fetch = .ok w)
    (hd : decodeWord w = .error e) : runInstruction s = .next (s.raise .unknownOpcode (some w)) := by
  simp only [runInstruction, hf, hd]

/-- A decoded instruction is executed (30_encoding.md R77). -/
theorem runInstruction_of_decoded {s : State} {w : Word} {i : Instr} (hf : s.fetch = .ok w)
    (hd : decodeWord w = .ok i) : runInstruction s = exec i s := by
  simp only [runInstruction, hf, hd]

/-- The fetch fault, in a Cycle. -/
theorem cycle_of_fetch_error {s : State} {f : Fault} (h : s.fault = none) (hf : s.fetch = .error f) :
    cycle s = .next ({ s with started := true }.raise f none) :=
  (cycle_of_running h).trans (runInstruction_of_fetch_error (s := { s with started := true }) hf)

/-- A word that is no instruction, in a Cycle. -/
theorem cycle_of_unknown {s : State} {w : Word} {e : DecodeError} (h : s.fault = none) (hf : s.fetch = .ok w)
    (hd : decodeWord w = .error e) :
    cycle s = .next ({ s with started := true }.raise .unknownOpcode (some w)) :=
  (cycle_of_running h).trans (runInstruction_of_unknown (s := { s with started := true }) hf hd)

/-- A decoded instruction, in a Cycle. -/
theorem cycle_of_decoded {s : State} {w : Word} {i : Instr} (h : s.fault = none) (hf : s.fetch = .ok w)
    (hd : decodeWord w = .ok i) : cycle s = exec i { s with started := true } :=
  (cycle_of_running h).trans (runInstruction_of_decoded (s := { s with started := true }) hf hd)

/-- What a Cycle can do: nothing, record a fault of fetch or decode, or execute an instruction. -/
theorem cycle_cases (s : State) :
    (s.fault ≠ none ∧ cycle s = .next s) ∨
    (s.fault = none ∧ ∃ f w,
      (s.fetch = .error f ∧ w = none ∨
        ∃ u e, s.fetch = .ok u ∧ decodeWord u = .error e ∧ f = .unknownOpcode ∧ w = some u) ∧
      cycle s = .next ({ s with started := true }.raise f w)) ∨
    (s.fault = none ∧ ∃ w i, s.fetch = .ok w ∧ decodeWord w = .ok i ∧
      cycle s = exec i { s with started := true }) := by
  by_cases h : s.fault = none
  · cases hf : s.fetch with
    | error f => exact .inr (.inl ⟨h, f, none, .inl ⟨rfl, rfl⟩, cycle_of_fetch_error h hf⟩)
    | ok w =>
      cases hd : decodeWord w with
      | error e => exact .inr (.inl ⟨h, _, _, .inr ⟨w, e, rfl, hd, rfl, rfl⟩, cycle_of_unknown h hf hd⟩)
      | ok i => exact .inr (.inr ⟨h, w, i, rfl, hd, cycle_of_decoded h hf hd⟩)
  · exact .inl ⟨h, cycle_of_halted h⟩

/-- What a step can do: a Cycle of the state without the queued Cycle, or one of the other transactions. -/
theorem step_cases (s : State) :
    (∃ rest, CycleNext s rest ∧ step s = cycle { s with driver := rest }) ∨
    (∃ rest, s.driver = .tick :: rest ∧ step s = .next (tick { s with driver := rest })) ∨
    (∃ rest, s.driver = .reset :: rest ∧ step s = .next (resetBlock { s with driver := rest })) ∨
    (∃ bytes rest, s.driver = .loadRom bytes :: rest ∧ step s = loadRom bytes { s with driver := rest }) ∨
    (∃ keys rest, s.driver = .setKeys keys :: rest ∧ step s = .next (setKeys keys { s with driver := rest })) := by
  cases hd : s.driver with
  | nil =>
    have hc : CycleNext s [] := .inl ⟨hd, rfl⟩
    exact .inl ⟨[], hc, step_of_cycleNext hc⟩
  | cons x rest =>
    have h := step_of_cons hd
    cases x with
    | cycle => exact .inl ⟨rest, .inr hd, h⟩
    | tick => exact .inr (.inl ⟨rest, rfl, h⟩)
    | reset => exact .inr (.inr (.inl ⟨rest, rfl, h⟩))
    | loadRom bytes => exact .inr (.inr (.inr (.inl ⟨bytes, rest, rfl, h⟩)))
    | setKeys keys => exact .inr (.inr (.inr (.inr ⟨keys, rest, rfl, h⟩)))

/-- What LoadRom can answer (70_reset_and_hazards.md R232, R234). -/
theorem loadRom_cases (bytes : List Byte) (s : State) :
    (s.started = true ∧ loadRom bytes s = .refused .loadRomAfterCycle) ∨
    (s.started = false ∧ 3584 < bytes.length ∧
      loadRom bytes s = .next { s with loadReport := some (.romTooLarge bytes.length) }) ∨
    (s.started = false ∧ bytes.length ≤ 3584 ∧
      loadRom bytes s = .next ({ s with loadReport := none }.storeBytes 0x200 bytes)) := by
  unfold loadRom
  cases h : s.started
  · by_cases hl : 3584 < bytes.length
    · exact .inr (.inl ⟨rfl, hl, by simp [hl]⟩)
    · exact .inr (.inr ⟨rfl, by omega, by simp [hl]⟩)
  · exact .inl ⟨rfl, by simp⟩

/-- A decrement takes one off a value that is not 0 (60_exceptions.md R209). -/
theorem toNat_decrement (b : Byte) : (decrement b).toNat = b.toNat - 1 := by
  have := b.isLt
  unfold decrement
  split
  · rw [BitVec.toNat_sub]; simp; omega
  · omega

end Sys2Proof.Machine
end

