-- ==== Sys2Proof/Laws/Exec.lean ====
section
/-! SUPPORT. What an instruction can do, said once: it runs under its guard with its effect, or raises a fault of R201, or
is an aliasing case under `refuse`. -/

namespace Sys2Proof.Machine

open Sys2Proof.Safety

/-- When `i` runs without a fault and without a refusal. -/
def Guard (i : Instr) (s : State) : Prop :=
  match i with
  | .ret => s.sp.val ≠ 0
  | .call _ => s.sp.val < 16
  | .addReg x y | .subReg x y | .subnReg x y => vfAmong x y = false ∨ s.params.vfAliasPolicy = .snapshot
  | .shrReg _ y | .shlReg _ y => (y == vF) = false ∨ s.params.vfAliasPolicy = .snapshot
  | .addI x => s.i.toNat + (s.reg x).toNat ≤ 0xFFFF
  | .ldB _ => 0x50 ≤ s.i.toNat ∧ s.i.toNat + 3 ≤ 0x1000
  | .storeRegs x => 0x50 ≤ s.i.toNat ∧ s.i.toNat + (x.val + 1) ≤ 0x1000
  | .loadRegs x => s.i.toNat + (x.val + 1) ≤ 0x1000
  | .drw _ _ n => n = 0 ∨ s.i.toNat + n ≤ 0x1000
  | .skp x | .sknp x => (s.reg x).toNat < 16
  | .ldF x => (s.reg x).toNat ≤ 0xF
  | _ => True

/-- The state `i` leaves when it runs. -/
def effect (i : Instr) (s : State) : State :=
  match i with
  | .cls => ((s.setFb clearFb).emitRepaint).setPc (s.pc + 2)
  | .ret => { s with pc := s.stack[s.sp.val - 1]'(by omega), sp := ⟨s.sp.val - 1, by omega⟩ }
  | .jp nnn => s.setPc (zextAddr nnn)
  | .call nnn =>
    { s with
      pc := zextAddr nnn, stack := s.stack.setIfInBounds s.sp.val (s.pc + 2), sp := ⟨min (s.sp.val + 1) 16, by omega⟩ }
  | .jpV0 nnn => s.setPc (u16 ((s.reg 0).toNat + nnn.toNat))
  | .seImm x kk => s.setPc (s.pc + if s.reg x == kk then 4 else 2)
  | .sneImm x kk => s.setPc (s.pc + if s.reg x != kk then 4 else 2)
  | .seReg x y => s.setPc (s.pc + if s.reg x == s.reg y then 4 else 2)
  | .sneReg x y => s.setPc (s.pc + if s.reg x != s.reg y then 4 else 2)
  | .ldImm x kk => (s.setReg x kk).setPc (s.pc + 2)
  | .addImm x kk => (s.setReg x (sum8 (s.reg x) kk)).setPc (s.pc + 2)
  | .ldReg x y => (s.setReg x (s.reg y)).setPc (s.pc + 2)
  | .orReg x y => (s.setReg x (s.reg x ||| s.reg y)).setPc (s.pc + 2)
  | .andReg x y => (s.setReg x (s.reg x &&& s.reg y)).setPc (s.pc + 2)
  | .xorReg x y => (s.setReg x (s.reg x ^^^ s.reg y)).setPc (s.pc + 2)
  | .addReg x y =>
    (s.setFlagThenReg (carryFlag (s.reg x) (s.reg y)) x (sum8 (s.reg x) (s.reg y))).setPc (s.pc + 2)
  | .subReg x y =>
    (s.setFlagThenReg (notBorrowFlag (s.reg x) (s.reg y)) x (diff8 (s.reg x) (s.reg y))).setPc (s.pc + 2)
  | .shrReg _ y => (s.setFlagThenReg (lowBitFlag (s.reg y)) y (half8 (s.reg y))).setPc (s.pc + 2)
  | .subnReg x y =>
    (s.setFlagThenReg (notBorrowFlag (s.reg y) (s.reg x)) x (diff8 (s.reg y) (s.reg x))).setPc (s.pc + 2)
  | .shlReg _ y => (s.setFlagThenReg (highBitFlag (s.reg y)) y (double8 (s.reg y))).setPc (s.pc + 2)
  | .ldI nnn => (s.setI (zextAddr nnn)).setPc (s.pc + 2)
  | .addI x => (s.setI (u16 (s.i.toNat + (s.reg x).toNat))).setPc (s.pc + 2)
  | .ldB x => (s.storeBytes s.i.toNat (bcdDigits (s.reg x))).setPc (s.pc + 2)
  | .storeRegs x => ((s.storeBytes s.i.toNat (s.regsThrough x)).setI (s.advancedI x)).setPc (s.pc + 2)
  | .loadRegs x =>
    { s with v := s.loadedRegs s.i.toNat (x.val + 1), i := s.advancedI x, pc := s.pc + 2 }
  | .rnd x kk => (s.consumeRandom.setReg x (s.nextRandom &&& kk)).setPc (s.pc + 2)
  | .drw x y n =>
    (((s.setFb (s.blitRows (s.reg x).toNat (s.reg y).toNat (s.fb, false) n).1).setReg vF
      (flag (s.blitRows (s.reg x).toNat (s.reg y).toNat (s.fb, false) n).2)).emitRepaint).setPc (s.pc + 2)
  | .skp x => s.setPc (s.pc + if (s.keys[(s.reg x).toNat]?).getD false then 4 else 2)
  | .sknp x => s.setPc (s.pc + if !(s.keys[(s.reg x).toNat]?).getD false then 4 else 2)
  | .ldVxDt x => (s.setReg x s.dt).setPc (s.pc + 2)
  | .ldDtVx x => (s.setDt (s.reg x)).setPc (s.pc + 2)
  | .ldStVx x => (s.setSt (s.reg x)).setPc (s.pc + 2)
  | .ldF x => (s.setI (u16 (5 * (s.reg x).toNat))).setPc (s.pc + 2)

/-- Under its guard an instruction answers its effect. -/
theorem exec_of_guard {i : Instr} {s : State} (h : Guard i s) : exec i s = .next (effect i s) := by
  cases i with
  | cls => rfl
  | ret => simp only [exec, execRet, State.pop_ok h]; rfl
  | jp | jpV0 | seImm | sneImm | seReg | sneReg | ldImm | addImm | ldReg | orReg | andReg | xorReg | ldI | ldVxDt
  | ldDtVx | ldStVx => rfl
  | call nnn =>
    have h' : s.sp.val < 16 := h
    simp only [exec, execCall, State.push_ok h', endJump, effect, State.setPc, Host.Outcome.next.injEq]
    congr 1
    · exact (by simp [Vector.set, Vector.setIfInBounds, Array.setIfInBounds, h'])
    · exact Fin.ext (by simp; omega)
  | addReg x y => exact aliasGate_open h _
  | subReg x y => exact aliasGate_open h _
  | shrReg x y => exact aliasGate_open h _
  | subnReg x y => exact aliasGate_open h _
  | shlReg x y => exact aliasGate_open h _
  | addI x => exact if_neg (Nat.not_lt.2 h)
  | ldB x => simp only [exec, execLdB, (firstFault_write_eq_none _ 3).2 (.inr h)]; rfl
  | storeRegs x => simp only [exec, execStoreRegs, (firstFault_write_eq_none _ _).2 (.inr h)]; rfl
  | loadRegs x => simp only [exec, execLoadRegs, (firstFault_read_eq_none _ _).2 (.inr h)]; rfl
  | rnd x kk => simp only [exec, execRnd, endNext, effect, State.setReg_pc, State.consumeRandom_pc]
  | drw x y n => simp only [exec, execDrw, (firstFault_read_eq_none _ _).2 h]; rfl
  | skp x =>
    have h' : (s.reg x).toNat < 16 := h
    simp only [exec, execSkp, State.keyOf_ok h', endSkipIf, effect]
    rw [Vector.getElem?_eq_getElem h']; rfl
  | sknp x =>
    have h' : (s.reg x).toNat < 16 := h
    simp only [exec, execSknp, State.keyOf_ok h', endSkipIf, effect]
    rw [Vector.getElem?_eq_getElem h']; rfl
  | ldF x => exact if_neg (Nat.not_lt.2 h)

/-- What the check of a range of reads can answer. -/
theorem read_fault_of_not {a len : Nat} (h : ¬ (len = 0 ∨ a + len ≤ 0x1000)) :
    firstFault memReadFault a len = some (.outOfBoundsAccess (max a 0x1000)) :=
  firstFault_read_eq_some (by omega) (by omega)

/-- What the check of a range of writes can answer. -/
theorem write_fault_of_not {a len : Nat} (h0 : len ≠ 0) (h : ¬ (0x50 ≤ a ∧ a + len ≤ 0x1000)) :
    firstFault memWriteFault a len = some (.protectedWrite a) ∧ a ≤ 0x4F ∨
      firstFault memWriteFault a len = some (.outOfBoundsAccess (max a 0x1000)) := by
  by_cases ha : a ≤ 0x4F
  · exact .inl ⟨firstFault_write_eq_protected h0 ha, ha⟩
  · exact .inr (firstFault_write_eq_outOfBounds h0 (by omega) (by omega))

/-- Outside its guard an instruction raises a fault of 60_exceptions.md R201, or is an aliasing form (R121) under `refuse`. -/
theorem exec_of_not_guard {i : Instr} {s : State} (h : ¬ Guard i s) :
    (∃ f, MayRaise i f ∧ exec i s = .next (s.raise f (some (encode i)))) ∨
      AliasForm i ∧ s.params.vfAliasPolicy = .refuse ∧ exec i s = .refused .vfAlias := by
  have gated : ∀ {c : Bool} {out}, ¬ (c = false ∨ s.params.vfAliasPolicy = .snapshot) →
      c = true ∧ s.params.vfAliasPolicy = .refuse ∧ aliasGate s c out = .refused .vfAlias := by
    intro c out hn
    have hc : c = true := by cases c <;> simp_all
    have hp : s.params.vfAliasPolicy = .refuse := by cases hp : s.params.vfAliasPolicy <;> simp_all
    exact ⟨hc, hp, aliasGate_refuse hc hp _⟩
  cases i with
  | cls | jp | jpV0 | seImm | sneImm | seReg | sneReg | ldImm | addImm | ldReg | orReg | andReg | xorReg | ldI | rnd
  | ldVxDt | ldDtVx | ldStVx => exact absurd trivial h
  | addReg x y => exact .inr ((gated h).imp_left vfAmong_eq_true.1)
  | subReg x y => exact .inr ((gated h).imp_left vfAmong_eq_true.1)
  | shrReg x y => exact .inr ((gated h).imp_left eq_of_beq)
  | subnReg x y => exact .inr ((gated h).imp_left vfAmong_eq_true.1)
  | shlReg x y => exact .inr ((gated h).imp_left eq_of_beq)
  | ret =>
    have h' : s.sp.val = 0 := Decidable.not_not.1 h
    exact .inl ⟨_, rfl, by simp only [exec, execRet, State.pop_error h']; rfl⟩
  | call nnn =>
    have h' : s.sp.val = 16 := by have : ¬ s.sp.val < 16 := h; omega
    exact .inl ⟨_, rfl, by simp only [exec, execCall, State.push_error h']; rfl⟩
  | addI x =>
    have h' : 0xFFFF < s.i.toNat + (s.reg x).toNat := Nat.not_le.1 h
    exact .inl ⟨_, ⟨_, h', rfl⟩, if_pos h'⟩
  | ldB x =>
    rcases write_fault_of_not (by decide) h with ⟨e, ha⟩ | e
    · exact .inl ⟨_, .inr ⟨_, ha, rfl⟩, by simp only [exec, execLdB, e]; rfl⟩
    · exact .inl ⟨_, .inl ⟨max s.i.toNat 0x1000, by omega, rfl⟩, by simp only [exec, execLdB, e]; rfl⟩
  | storeRegs x =>
    rcases write_fault_of_not (by omega) h with ⟨e, ha⟩ | e
    · exact .inl ⟨_, .inr ⟨_, ha, rfl⟩, by simp only [exec, execStoreRegs, e]; rfl⟩
    · exact .inl ⟨_, .inl ⟨max s.i.toNat 0x1000, by omega, rfl⟩, by simp only [exec, execStoreRegs, e]; rfl⟩
  | loadRegs x =>
    have e := read_fault_of_not (a := s.i.toNat) (len := x.val + 1) (by simpa [Guard] using h)
    exact .inl ⟨_, ⟨max s.i.toNat 0x1000, by omega, rfl⟩, by simp only [exec, execLoadRegs, e]; rfl⟩
  | drw x y n =>
    have e := read_fault_of_not h
    exact .inl ⟨_, ⟨max s.i.toNat 0x1000, by omega, rfl⟩, by simp only [exec, execDrw, e]; rfl⟩
  | skp x =>
    have h' : 15 < (s.reg x).toNat := by have : ¬ (s.reg x).toNat < 16 := h; omega
    exact .inl ⟨_, ⟨_, h', rfl⟩, by simp only [exec, execSkp, State.keyOf_error h']; rfl⟩
  | sknp x =>
    have h' : 15 < (s.reg x).toNat := by have : ¬ (s.reg x).toNat < 16 := h; omega
    exact .inl ⟨_, ⟨_, h', rfl⟩, by simp only [exec, execSknp, State.keyOf_error h']; rfl⟩
  | ldF x =>
    have h' : 0xF < (s.reg x).toNat := Nat.not_le.1 h
    exact .inl ⟨_, ⟨_, h', rfl⟩, if_pos h'⟩

/-- The inversion of `exec`: a next state is the effect under the guard, or the record of a fault of R201. -/
theorem exec_next_cases {i : Instr} {s t : State} (h : exec i s = .next t) :
    (Guard i s ∧ t = effect i s) ∨ ∃ f, MayRaise i f ∧ t = s.raise f (some (encode i)) := by
  by_cases hg : Guard i s
  · rw [exec_of_guard hg] at h; cases h; exact .inl ⟨hg, rfl⟩
  · rcases exec_of_not_guard hg with ⟨f, hf, e⟩ | ⟨-, -, e⟩
    · rw [e] at h; cases h; exact .inr ⟨f, hf, rfl⟩
    · rw [e] at h; cases h

/-- An effect records no fault. -/
@[simp] theorem effect_fault (i : Instr) (s : State) : (effect i s).fault = s.fault := by
  cases i <;> simp [effect]

/-- The inversion of `exec` for a next state in which no fault is recorded. -/
theorem exec_next_running {i : Instr} {s t : State} (h : exec i s = .next t) (hf : t.fault = none) :
    Guard i s ∧ t = effect i s := by
  rcases exec_next_cases h with h | ⟨f, -, rfl⟩
  · exact h
  · simp at hf

/-- No instruction touches the order of the run, the parameters, the keypad or LoadRom's report. -/
theorem exec_keeps_order {i : Instr} {s t : State} (h : exec i s = .next t) :
    t.started = s.started ∧ t.driver = s.driver ∧ t.params = s.params ∧ t.loadReport = s.loadReport ∧
      t.keys = s.keys := by
  rcases exec_next_cases h with ⟨-, rfl⟩ | ⟨f, -, rfl⟩
  · cases i <;> simp [effect]
  · simp

end Sys2Proof.Machine
end

