-- ==== Sys2Proof/Laws/PerInstr.lean ====
section
/-! SUPPORT. Per instruction: the word it encodes to lies in its row of the opcode table. -/

namespace Sys2Proof.Laws.EncodingRow

/-- The word of `i` matches the mask and match of its row (30_encoding.md R74). -/
def Statement (i : Instr) : Prop := encode i &&& (tableRow i).1 = (tableRow i).2

theorem nnn_row {op : Nat} (h : op < 16) (nnn : BitVec 12) (m : Word) (hm : m.toNat = op * 4096) :
    encNNN op nnn &&& 0xF000#16 = m := by
  have := nnn.isLt
  apply BitVec.eq_of_toNat_eq
  rw [mask_F000, toNat_encNNN h, hm]; omega

theorem xkk_row {op : Nat} (h : op < 16) (x : Reg) (kk : Byte) (m : Word) (hm : m.toNat = op * 4096) :
    encXKK op x kk.toNat &&& 0xF000#16 = m := by
  have := kk.isLt; have := x.isLt
  apply BitVec.eq_of_toNat_eq
  rw [mask_F000, toNat_encXKK h x kk.isLt, hm]; omega

theorem xfn_row {op : Nat} (h : op < 16) (x : Reg) {f : Nat} (hf : f < 256) (m : Word)
    (hm : m.toNat = op * 4096 + f) : encXKK op x f &&& 0xF0FF#16 = m := by
  have := x.isLt
  apply BitVec.eq_of_toNat_eq
  rw [mask_F0FF, toNat_encXKK h x hf, hm]; omega

theorem xyn_row {op : Nat} (h : op < 16) (x y : Reg) {n : Nat} (hn : n < 16) (m : Word)
    (hm : m.toNat = op * 4096 + n) : encXYN op x y n &&& 0xF00F#16 = m := by
  have := x.isLt; have := y.isLt
  apply BitVec.eq_of_toNat_eq
  rw [mask_F00F, toNat_encXYN h, hm]; omega

theorem cls : Statement .cls := by unfold Statement; decide
theorem ret : Statement .ret := by unfold Statement; decide
theorem jp (nnn : BitVec 12) : Statement (.jp nnn) := nnn_row (by decide) nnn _ rfl
theorem call (nnn : BitVec 12) : Statement (.call nnn) := nnn_row (by decide) nnn _ rfl
theorem jpV0 (nnn : BitVec 12) : Statement (.jpV0 nnn) := nnn_row (by decide) nnn _ rfl
theorem seImm (x : Reg) (kk : Byte) : Statement (.seImm x kk) := xkk_row (by decide) x kk _ rfl
theorem sneImm (x : Reg) (kk : Byte) : Statement (.sneImm x kk) := xkk_row (by decide) x kk _ rfl
theorem seReg (x y : Reg) : Statement (.seReg x y) := xyn_row (by decide) x y (by decide) _ rfl
theorem sneReg (x y : Reg) : Statement (.sneReg x y) := xyn_row (by decide) x y (by decide) _ rfl
theorem ldImm (x : Reg) (kk : Byte) : Statement (.ldImm x kk) := xkk_row (by decide) x kk _ rfl
theorem addImm (x : Reg) (kk : Byte) : Statement (.addImm x kk) := xkk_row (by decide) x kk _ rfl
theorem ldReg (x y : Reg) : Statement (.ldReg x y) := xyn_row (by decide) x y (by decide) _ rfl
theorem orReg (x y : Reg) : Statement (.orReg x y) := xyn_row (by decide) x y (by decide) _ rfl
theorem andReg (x y : Reg) : Statement (.andReg x y) := xyn_row (by decide) x y (by decide) _ rfl
theorem xorReg (x y : Reg) : Statement (.xorReg x y) := xyn_row (by decide) x y (by decide) _ rfl
theorem addReg (x y : Reg) : Statement (.addReg x y) := xyn_row (by decide) x y (by decide) _ rfl
theorem subReg (x y : Reg) : Statement (.subReg x y) := xyn_row (by decide) x y (by decide) _ rfl
theorem shrReg (x y : Reg) : Statement (.shrReg x y) := xyn_row (by decide) x y (by decide) _ rfl
theorem subnReg (x y : Reg) : Statement (.subnReg x y) := xyn_row (by decide) x y (by decide) _ rfl
theorem shlReg (x y : Reg) : Statement (.shlReg x y) := xyn_row (by decide) x y (by decide) _ rfl
theorem ldI (nnn : BitVec 12) : Statement (.ldI nnn) := nnn_row (by decide) nnn _ rfl
theorem addI (x : Reg) : Statement (.addI x) := xfn_row (by decide) x (by decide) _ rfl
theorem ldB (x : Reg) : Statement (.ldB x) := xfn_row (by decide) x (by decide) _ rfl
theorem storeRegs (x : Reg) : Statement (.storeRegs x) := xfn_row (by decide) x (by decide) _ rfl
theorem loadRegs (x : Reg) : Statement (.loadRegs x) := xfn_row (by decide) x (by decide) _ rfl
theorem rnd (x : Reg) (kk : Byte) : Statement (.rnd x kk) := xkk_row (by decide) x kk _ rfl
theorem drw (x y : Reg) (n : Nat) : Statement (.drw x y n) := by
  have := x.isLt; have := y.isLt
  apply BitVec.eq_of_toNat_eq
  rw [show (tableRow (.drw x y n)).1 = 0xF000#16 by rfl, mask_F000]
  show (encXYN 0xD x y n).toNat / 4096 * 4096 = 0xD000
  rw [toNat_encXYN (by decide)]; omega
theorem skp (x : Reg) : Statement (.skp x) := xfn_row (by decide) x (by decide) _ rfl
theorem sknp (x : Reg) : Statement (.sknp x) := xfn_row (by decide) x (by decide) _ rfl
theorem ldVxDt (x : Reg) : Statement (.ldVxDt x) := xfn_row (by decide) x (by decide) _ rfl
theorem ldDtVx (x : Reg) : Statement (.ldDtVx x) := xfn_row (by decide) x (by decide) _ rfl
theorem ldStVx (x : Reg) : Statement (.ldStVx x) := xfn_row (by decide) x (by decide) _ rfl
theorem ldF (x : Reg) : Statement (.ldF x) := xfn_row (by decide) x (by decide) _ rfl

end Sys2Proof.Laws.EncodingRow
end

