-- ==== Sys2Proof/Laws/Sprite.lean ====
section
/-! SUPPORT. What the loops of the blit do to one pixel and to the collision flag (45_sprite_draw.md R161). -/

namespace Sys2Proof.Machine

/-- A pixel depends on its coordinates modulo the size of the grid (10_state.md R30). -/
theorem Framebuffer.pixel_congr (fb : Framebuffer) {px py qx qy : Nat} (hx : px % 64 = qx % 64)
    (hy : py % 32 = qy % 32) : Framebuffer.pixel fb px py = Framebuffer.pixel fb qx qy := by
  simp only [Framebuffer.pixel, hx, hy]

/-- Row `r` of a sprite at (cx, cy) has a set bit among its first `len` columns that lands on (qx, qy). -/
abbrev RowSets (cx cy r : Nat) (row : Byte) (len qx qy : Nat) : Prop :=
  ∃ b < len, (cx + b) % 64 = qx % 64 ∧ (cy + r) % 32 = qy % 32 ∧ row.getLsbD (7 - b) = true

/-- One column more of a row lands on a column of its own. -/
theorem not_rowSets_self {cx cy r : Nat} {row : Byte} {b : Nat} (h : b < 8) :
    ¬ RowSets cx cy r row b (cx + b) (cy + r) := by
  rintro ⟨j, hj, e, -⟩
  omega

theorem rowSets_succ {cx cy r : Nat} {row : Byte} {b qx qy : Nat} :
    RowSets cx cy r row (b + 1) qx qy ↔ RowSets cx cy r row b qx qy ∨
      ((cx + b) % 64 = qx % 64 ∧ (cy + r) % 32 = qy % 32 ∧ row.getLsbD (7 - b) = true) := by
  constructor
  · rintro ⟨j, hj, h⟩
    by_cases e : j = b
    · subst e; exact .inr h
    · exact .inl ⟨j, by omega, h⟩
  · rintro (⟨j, hj, h⟩ | h)
    · exact ⟨j, by omega, h⟩
    · exact ⟨b, by omega, h⟩

/-- A row inverts exactly the pixels its set bits land on. -/
theorem pixel_blitRow (cx cy r : Nat) (row : Byte) (c : Canvas) {len : Nat} (hl : len ≤ 8) (qx qy : Nat) :
    Framebuffer.pixel (blitRow cx cy r row c len).1 qx qy =
      (Framebuffer.pixel c.1 qx qy ^^ decide (RowSets cx cy r row len qx qy)) := by
  induction len generalizing qx qy with
  | zero => simp [blitRow, RowSets]
  | succ b ih =>
    simp only [blitRow, blitBit, Framebuffer.pixel_setPixel]
    by_cases hq : qx % 64 = (cx + b) % 64 ∧ qy % 32 = (cy + r) % 32
    · have hn : ¬ RowSets cx cy r row b qx qy := by
        rintro ⟨j, hj, e, -⟩
        omega
      rw [if_pos hq, ih (by omega), decide_eq_false (not_rowSets_self (by omega)), Bool.xor_false,
        Framebuffer.pixel_congr c.1 hq.1.symm hq.2.symm]
      congr 1
      rw [Bool.eq_iff_iff, decide_eq_true_iff, rowSets_succ]
      exact ⟨fun h => .inr ⟨hq.1.symm, hq.2.symm, h⟩, fun h => h.elim (fun h => absurd h hn) (fun h => h.2.2)⟩
    · rw [if_neg hq, ih (by omega)]
      congr 2
      rw [rowSets_succ]
      exact propext ⟨.inl, fun h => h.elim id (fun h => absurd ⟨h.1.symm, h.2.1.symm⟩ hq)⟩

/-- A row reports a collision iff one of its set bits lands on a pixel that was set before the row. -/
theorem collision_blitRow (cx cy r : Nat) (row : Byte) (c : Canvas) {len : Nat} (hl : len ≤ 8) :
    (blitRow cx cy r row c len).2 = true ↔ c.2 = true ∨
      ∃ b < len, Framebuffer.pixel c.1 (cx + b) (cy + r) = true ∧ row.getLsbD (7 - b) = true := by
  induction len with
  | zero => simp [blitRow]
  | succ b ih =>
    simp only [blitRow, blitBit, Bool.or_eq_true, ih (by omega), Bool.and_eq_true,
      pixel_blitRow cx cy r row c (show b ≤ 8 by omega), decide_eq_false (not_rowSets_self (show b < 8 by omega)),
      Bool.xor_false]
    constructor
    · rintro ((h | ⟨j, hj, h⟩) | h)
      · exact .inl h
      · exact .inr ⟨j, by omega, h⟩
      · exact .inr ⟨b, by omega, h⟩
    · rintro (h | ⟨j, hj, h⟩)
      · exact .inl (.inl h)
      · by_cases e : j = b
        · subst e; exact .inr h
        · exact .inl (.inr ⟨j, by omega, h⟩)

/-- A sprite of `len` rows at (cx, cy) has a set bit that lands on (qx, qy). -/
abbrev SpriteHits (s : State) (cx cy len qx qy : Nat) : Prop :=
  ∃ r < len, RowSets cx cy r (s.byteAt (s.i.toNat + r)) 8 qx qy

/-- Up to 32 rows invert exactly the pixels their set bits land on. -/
theorem pixel_blitRows (s : State) (cx cy : Nat) (c : Canvas) {len : Nat} (hl : len ≤ 32) (qx qy : Nat) :
    Framebuffer.pixel (s.blitRows cx cy c len).1 qx qy =
      (Framebuffer.pixel c.1 qx qy ^^ decide (SpriteHits s cx cy len qx qy)) := by
  induction len with
  | zero => simp [State.blitRows, SpriteHits]
  | succ r ih =>
    simp only [State.blitRows, pixel_blitRow cx cy r _ _ (Nat.le_refl 8), ih (by omega), Bool.xor_assoc]
    congr 1
    rw [Bool.eq_iff_iff, decide_eq_true_iff]
    by_cases h1 : SpriteHits s cx cy r qx qy <;>
      by_cases h2 : RowSets cx cy r (s.byteAt (s.i.toNat + r)) 8 qx qy
    · obtain ⟨j, hj, b, hb, -, e, -⟩ := h1
      obtain ⟨b', hb', -, e', -⟩ := h2
      omega
    · simp only [decide_eq_true h1, decide_eq_false h2, Bool.xor_false, true_iff]
      obtain ⟨j, hj, h⟩ := h1
      exact ⟨j, by omega, h⟩
    · simp only [decide_eq_false h1, decide_eq_true h2, Bool.false_xor, true_iff]
      exact ⟨r, by omega, h2⟩
    · simp only [decide_eq_false h1, decide_eq_false h2, Bool.xor_false, Bool.false_eq_true, false_iff]
      rintro ⟨j, hj, h⟩
      by_cases e : j = r
      · subst e; exact h2 h
      · exact h1 ⟨j, by omega, h⟩

/-- Up to 32 rows report a collision iff one of their set bits lands on a pixel that was set before the draw. -/
theorem collision_blitRows (s : State) (cx cy : Nat) (c : Canvas) {len : Nat} (hl : len ≤ 32) :
    (s.blitRows cx cy c len).2 = true ↔ c.2 = true ∨
      ∃ r < len, ∃ b < 8, Framebuffer.pixel c.1 (cx + b) (cy + r) = true ∧
        (s.byteAt (s.i.toNat + r)).getLsbD (7 - b) = true := by
  induction len with
  | zero => simp [State.blitRows]
  | succ r ih =>
    have hn : ∀ b, ¬ SpriteHits s cx cy r (cx + b) (cy + r) := by
      rintro b ⟨j, hj, b', hb', -, e, -⟩
      omega
    simp only [State.blitRows, collision_blitRow cx cy r _ _ (Nat.le_refl 8), ih (by omega),
      pixel_blitRows s cx cy c (show r ≤ 32 by omega), decide_eq_false (hn _), Bool.xor_false]
    constructor
    · rintro ((h | ⟨j, hj, h⟩) | h)
      · exact .inl h
      · exact .inr ⟨j, by omega, h⟩
      · exact .inr ⟨r, by omega, h⟩
    · rintro (h | ⟨j, hj, h⟩)
      · exact .inl (.inl h)
      · by_cases e : j = r
        · subst e; exact .inr h
        · exact .inl (.inr ⟨j, by omega, h⟩)

/-- The rows drawn depend on memory and I alone. -/
theorem blitRows_congr {s t : State} (hi : t.i = s.i) (hm : ∀ a, t.byteAt a = s.byteAt a) (cx cy : Nat) (c : Canvas)
    (len : Nat) : t.blitRows cx cy c len = s.blitRows cx cy c len := by
  induction len with
  | zero => rfl
  | succ r ih => simp only [State.blitRows, ih, hi, hm]

end Sys2Proof.Machine
end

