-- ==== Sys2Proof/Tests/Slice0.lean ====
section
/-! SUPPORT. Tests whose expected results stand in the spec (30_encoding.md R74, 95_test_vectors.md; the vector's name is
in each comment), and for every obligation with hypotheses a witness that meets them. -/

namespace Sys2Proof.Tests

open Sys2Proof.Machine Sys2Proof.Safety

/-! ### Helpers -/

/-- The reset state with word `w` at PC = 0x200 and the registers given. -/
def start (w : Nat) (regs : List (Reg × Byte)) : State :=
  regs.foldl (fun s r => s.setReg r.1 r.2) (State.reset.withFetchWord 16 w)

/-- The same with I = `i`, and `bytes` in memory there. -/
def startAt (w : Nat) (i : Word) (bytes : List Byte) (regs : List (Reg × Byte)) : State :=
  (start w regs).setI i |>.storeBytes i.toNat bytes

/-- One step of `s` answers a next state that passes `p`. -/
def after (s : State) (p : State → Bool) : Bool :=
  match step s with
  | .next t => p t
  | .fault _ => false
  | .refused _ => false

/-- One step of `s` records the fault `f` with the opcode `w`. -/
def faults (s : State) (f : Fault) (w : Option Word) : Bool :=
  after s fun t => t.fault == some { kind := f, pc := s.pc, opcode := w }

/-- One step of `s` is refused as `r`. -/
def refusedAs (s : State) (r : Refusal) : Bool :=
  match step s with
  | .next _ => false
  | .fault _ => false
  | .refused q => q == r

/-! ### WellFormed: each check refuses an ill-formed term -/

theorem test_wf_drw_rows : Instr.wf (.drw 0 0 16) = false := by decide
theorem test_wf_drw_fits : Instr.wf (.drw 0 0 15) = true := by decide

/-! ### Decode: a word of every constructor, written out from the pattern of its row in 30_encoding.md R74 -/

theorem test_decode_cls : decodeWord 0b0000000011100000 = .ok .cls := by decide
theorem test_decode_ret : decodeWord 0b0000000011101110 = .ok .ret := by decide
theorem test_decode_jp : decodeWord 0b0001_1010_1011_1100 = .ok (.jp 0xABC) := by decide
theorem test_decode_call : decodeWord 0b0010_0010_0001_0000 = .ok (.call 0x210) := by decide
theorem test_decode_seImm : decodeWord 0b0011_0011_0100_0010 = .ok (.seImm 3 0x42) := by decide
theorem test_decode_sneImm : decodeWord 0b0100_0011_0100_0010 = .ok (.sneImm 3 0x42) := by decide
theorem test_decode_seReg : decodeWord 0b0101_0001_0010_0000 = .ok (.seReg 1 2) := by decide
theorem test_decode_ldImm : decodeWord 0b0110_1010_0010_1011 = .ok (.ldImm 10 0x2B) := by decide
theorem test_decode_addImm : decodeWord 0b0111_0001_1111_1111 = .ok (.addImm 1 0xFF) := by decide
theorem test_decode_ldReg : decodeWord 0b1000_0001_0010_0000 = .ok (.ldReg 1 2) := by decide
theorem test_decode_orReg : decodeWord 0b1000_0001_0010_0001 = .ok (.orReg 1 2) := by decide
theorem test_decode_andReg : decodeWord 0b1000_0001_0010_0010 = .ok (.andReg 1 2) := by decide
theorem test_decode_xorReg : decodeWord 0b1000_0001_0010_0011 = .ok (.xorReg 1 2) := by decide
theorem test_decode_addReg : decodeWord 0b1000_0001_0010_0100 = .ok (.addReg 1 2) := by decide
theorem test_decode_subReg : decodeWord 0b1000_0001_0010_0101 = .ok (.subReg 1 2) := by decide
theorem test_decode_shrReg : decodeWord 0b1000_1010_1011_0110 = .ok (.shrReg 10 11) := by decide
theorem test_decode_subnReg : decodeWord 0b1000_0001_0010_0111 = .ok (.subnReg 1 2) := by decide
theorem test_decode_shlReg : decodeWord 0b1000_0001_0010_1110 = .ok (.shlReg 1 2) := by decide
theorem test_decode_sneReg : decodeWord 0b1001_0001_0010_0000 = .ok (.sneReg 1 2) := by decide
theorem test_decode_ldI : decodeWord 0b1010_0011_0000_0000 = .ok (.ldI 0x300) := by decide
theorem test_decode_jpV0 : decodeWord 0b1011_0011_0000_0000 = .ok (.jpV0 0x300) := by decide
theorem test_decode_rnd : decodeWord 0b1100_0011_0000_1111 = .ok (.rnd 3 0x0F) := by decide
theorem test_decode_drw : decodeWord 0b1101_0001_0010_1111 = .ok (.drw 1 2 15) := by decide
theorem test_decode_skp : decodeWord 0b1110_0101_1001_1110 = .ok (.skp 5) := by decide
theorem test_decode_sknp : decodeWord 0b1110_0101_1010_0001 = .ok (.sknp 5) := by decide
theorem test_decode_ldVxDt : decodeWord 0b1111_0100_0000_0111 = .ok (.ldVxDt 4) := by decide
theorem test_decode_ldDtVx : decodeWord 0b1111_0100_0001_0101 = .ok (.ldDtVx 4) := by decide
theorem test_decode_ldStVx : decodeWord 0b1111_0100_0001_1000 = .ok (.ldStVx 4) := by decide
theorem test_decode_addI : decodeWord 0b1111_0010_0001_1110 = .ok (.addI 2) := by decide
theorem test_decode_ldF : decodeWord 0b1111_0011_0010_1001 = .ok (.ldF 3) := by decide
theorem test_decode_ldB : decodeWord 0b1111_0011_0011_0011 = .ok (.ldB 3) := by decide
theorem test_decode_storeRegs : decodeWord 0b1111_0001_0101_0101 = .ok (.storeRegs 1) := by decide
theorem test_decode_loadRegs : decodeWord 0b1111_0010_0110_0101 = .ok (.loadRegs 2) := by decide

/-- The illegal words of 95_test_vectors.md 2.1. -/
theorem test_decode_illegal :
    [0x0000, 0x01E0, 0x0123, 0x5121, 0x800F, 0x8008, 0x912F, 0xE0A2, 0xF00A, 0xFFFF].map decodeWord =
      [0x0000, 0x01E0, 0x0123, 0x5121, 0x800F, 0x8008, 0x912F, 0xE0A2, 0xF00A, 0xFFFF].map
        (fun w : Word => .error (.unknownOpcode w)) := by decide

/-- One byte is no instruction (30_encoding.md R70). -/
theorem test_decode_truncated : decode [0x60] = .error .truncated := by decide

/-- The host's two questions: the decoder reads the row's word, and a step from reset runs it. -/
theorem test_decodeTableWord : decodeTableWord 16 0x8124 = some (.addReg 1 2) := by decide
theorem test_withFetchWord : (State.reset.withFetchWord 16 0x8124).fetch = .ok 0x8124 := by decide

/-! ### Fetch and PC (95_test_vectors.md 2.2) -/

theorem test_fetch_last :
    after ({ State.reset with pc := 0xFFE }.storeBytes 0xFFE [0x60, 0x05])
      (fun t => t.reg 0 == 0x05 && t.pc == 0x1000 && t.fault == none) = true := by decide
theorem test_fetch_past_the_end :
    faults { State.reset with pc := 0xFFF } (.outOfBoundsAccess 0x1000) none = true := by decide
theorem test_fetch_odd :
    after ({ State.reset with pc := 0x201 }.storeBytes 0x201 [0x61, 0x07])
      (fun t => t.reg 1 == 0x07 && t.pc == 0x203) = true := by decide

/-! ### Control (2.3) -/

/-- C1. -/
theorem test_cls :
    after ((start 0x00E0 []).setFb (Framebuffer.setPixel (Framebuffer.setPixel clearFb 3 4 true) 63 31 true))
      (fun t => !t.pixel 3 4 && !t.pixel 63 31 && t.repaints == 1 && t.pc == 0x202) = true := by decide
/-- C2. -/
theorem test_ret_underflow : faults (start 0x00EE []) .stackUnderflow (some 0x00EE) = true := by decide
/-- C3. -/
theorem test_ret :
    after { start 0x00EE [] with sp := 2, stack := (Vector.replicate 16 0x206).set 1 0x30A }
      (fun t => t.pc == 0x30A && t.sp == 1) = true := by decide
/-- C4 and C5. -/
theorem test_jp : after (start 0x1000 []) (fun t => t.pc == 0x000) = true := by decide
theorem test_jp_top : after (start 0x1FFF []) (fun t => t.pc == 0xFFF) = true := by decide
/-- C7. -/
theorem test_call :
    after { start 0x2300 [] with sp := 15 } (fun t => t.stack[15] == 0x202 && t.sp == 16 && t.pc == 0x300) = true := by
  decide
/-- C8. -/
theorem test_call_overflow :
    faults { start 0x2300 [] with sp := 16 } .stackOverflow (some 0x2300) = true := by decide
/-- C10 and C11. -/
theorem test_jpV0 : after (start 0xB300 [(0, 0x10)]) (fun t => t.pc == 0x310) = true := by decide
theorem test_jpV0_beyond : after (start 0xBFFF [(0, 0xFF)]) (fun t => t.pc == 0x10FE) = true := by decide

/-! ### Conditional skip (2.4) -/

/-- K1 to K6, K9. -/
theorem test_seImm_taken : after (start 0x3342 [(3, 0x42)]) (fun t => t.pc == 0x204) = true := by decide
theorem test_seImm_not : after (start 0x3343 [(3, 0x42)]) (fun t => t.pc == 0x202) = true := by decide
theorem test_sneImm_not : after (start 0x4342 [(3, 0x42)]) (fun t => t.pc == 0x202) = true := by decide
theorem test_sneImm_taken : after (start 0x4300 [(3, 0x42)]) (fun t => t.pc == 0x204) = true := by decide
theorem test_seReg_taken : after (start 0x5120 [(1, 7), (2, 7)]) (fun t => t.pc == 0x204) = true := by decide
theorem test_seReg_not : after (start 0x5120 [(1, 7), (2, 8)]) (fun t => t.pc == 0x202) = true := by decide
theorem test_sneReg_taken : after (start 0x9120 [(1, 7), (2, 8)]) (fun t => t.pc == 0x204) = true := by decide
/-- K8. -/
theorem test_sneReg_not : after (start 0x9110 [(1, 7)]) (fun t => t.pc == 0x202) = true := by decide

/-! ### Load and arithmetic (2.5, and S1 to S3 of Part 1) -/

/-- S1. -/
theorem test_ldImm : after (start 0x6A2B []) (fun t => t.reg 10 == 0x2B && t.pc == 0x202) = true := by decide
/-- A2, A4. -/
theorem test_addImm : after (start 0x7101 [(1, 0xFF), (15, 0x5A)]) (fun t => t.reg 1 == 0 && t.reg 15 == 0x5A) = true := by
  decide
theorem test_addImm_vf : after (start 0x7F05 [(15, 0x10)]) (fun t => t.reg 15 == 0x15) = true := by decide
/-- A5 to A8. -/
theorem test_ldReg : after (start 0x8120 [(2, 0x99)]) (fun t => t.reg 1 == 0x99 && t.reg 2 == 0x99) = true := by decide
theorem test_or :
    after (start 0x8121 [(1, 0xF0), (2, 0x0F), (15, 0x77)]) (fun t => t.reg 1 == 0xFF && t.reg 15 == 0x77) = true := by
  decide
theorem test_and :
    after (start 0x8122 [(1, 0xF0), (2, 0x3C), (15, 0x77)]) (fun t => t.reg 1 == 0x30 && t.reg 15 == 0x77) = true := by
  decide
theorem test_xor : after (start 0x8123 [(1, 0xF0), (2, 0x3C)]) (fun t => t.reg 1 == 0xCC) = true := by decide
/-- S2 and A12. -/
theorem test_add : after (start 0x8124 [(1, 0xFF), (2, 0x01)]) (fun t => t.reg 1 == 0 && t.reg 15 == 1) = true := by decide
theorem test_add_into_vf : after (start 0x8F14 [(15, 0xF0), (1, 0x20)]) (fun t => t.reg 15 == 0x10) = true := by decide
/-- A14 and A15. -/
theorem test_sub : after (start 0x8125 [(1, 3), (2, 5)]) (fun t => t.reg 1 == 0xFE && t.reg 15 == 0) = true := by decide
theorem test_sub_strict :
    after (start 0x8125 [(1, 5), (2, 5), (15, 1)]) (fun t => t.reg 1 == 0 && t.reg 15 == 0) = true := by decide
/-- A19 and A22. -/
theorem test_shr :
    after (start 0x8126 [(1, 0x11), (2, 0x05)]) (fun t => t.reg 2 == 2 && t.reg 15 == 1 && t.reg 1 == 0x11) = true := by
  decide
theorem test_shr_vf : after (start 0x81F6 [(15, 0x06)]) (fun t => t.reg 15 == 0x03) = true := by decide
/-- A23 and A24. -/
theorem test_subn : after (start 0x8127 [(1, 3), (2, 5)]) (fun t => t.reg 1 == 2 && t.reg 15 == 1) = true := by decide
theorem test_subn_borrow :
    after (start 0x8127 [(1, 5), (2, 3)]) (fun t => t.reg 1 == 0xFE && t.reg 15 == 0) = true := by decide
/-- A27 and A29. -/
theorem test_shl :
    after (start 0x812E [(1, 0x11), (2, 0x81)]) (fun t => t.reg 2 == 2 && t.reg 15 == 1 && t.reg 1 == 0x11) = true := by
  decide
theorem test_shl_vf : after (start 0x81FE [(15, 0xC0)]) (fun t => t.reg 15 == 0x80) = true := by decide

/-- The block under `VF_ALIAS_POLICY = refuse`. -/
def refusing (s : State) : State := { s with params := { s.params with vfAliasPolicy := .refuse } }

/-- A12 and A29 are refused runs there; S2 is not. -/
theorem test_refuse_add : refusedAs (refusing (start 0x8F14 [])) .vfAlias = true := by decide
theorem test_refuse_shl : refusedAs (refusing (start 0x81FE [])) .vfAlias = true := by decide
theorem test_refuse_only_aliases :
    after (refusing (start 0x8124 [(1, 0xFF), (2, 0x01)])) (fun t => t.reg 15 == 1) = true := by decide

/-! ### Memory instructions (2.6, and S8 and S9 of Part 1) -/

/-- M1. -/
theorem test_ldI : after (start 0xAFFF []) (fun t => t.i == 0x0FFF) = true := by decide
/-- M3 and M4. -/
theorem test_addI : after (startAt 0xF01E 0xFFF [] [(0, 1)]) (fun t => t.i == 0x1000 && t.reg 15 == 0) = true := by decide
theorem test_addI_overflow :
    faults (startAt 0xF01E 0xFFFF [] [(0, 1)]) (.outOfBoundsAccess 0x10000) (some 0xF01E) = true := by decide
/-- S8. -/
theorem test_ldB :
    after (startAt 0xF033 0x300 [] [(0, 0xEA)])
      (fun t => t.byteAt 0x300 == 2 && t.byteAt 0x301 == 3 && t.byteAt 0x302 == 4 && t.i == 0x300) = true := by decide
/-- M8. -/
theorem test_ldB_fault :
    faults (startAt 0xF033 0xFFE [] [(0, 1)]) (.outOfBoundsAccess 0x1000) (some 0xF033) = true := by decide
/-- S9, the first half. -/
theorem test_storeRegs :
    after (startAt 0xF255 0x300 [] [(0, 1), (1, 2), (2, 3)])
      (fun t => t.byteAt 0x300 == 1 && t.byteAt 0x301 == 2 && t.byteAt 0x302 == 3 && t.i == 0x303) = true := by decide
/-- M13. -/
theorem test_storeRegs_fault :
    faults (startAt 0xF155 0x04E [] []) (.protectedWrite 0x04E) (some 0xF155) = true := by decide
/-- M14: the reference glyph of 0. -/
theorem test_loadRegs_glyph :
    after (start 0xF465 [])
      (fun t => t.reg 0 == 0xF0 && t.reg 1 == 0x90 && t.reg 3 == 0x90 && t.reg 4 == 0xF0 && t.i == 0x005) = true := by
  decide
/-- M16. -/
theorem test_loadRegs_fault :
    faults (startAt 0xFF65 0xFF1 [] []) (.outOfBoundsAccess 0x1000) (some 0xFF65) = true := by decide

/-- Writing back what an unlisted byte reads as leaves nothing listed, below and above the glyph table (entry 5). -/
theorem test_memory_canonical :
    ((State.reset.storeBytes 0x300 [0x12, 0x34]).storeBytes 0x300 [0x00, 0x00]).mem = [] ∧
      (State.reset.storeBytes 0x301 [0x34]).mem = [(0x301, 0x34)] := by decide

/-! ### Random (2.7) -/

/-- N1 and N2; one byte is consumed for every mask (44_random.md R150). -/
theorem test_rnd : after { start 0xC30F [] with rand := [0xB7] } (fun t => t.reg 3 == 0x07 && t.rand == []) = true := by
  decide
theorem test_rnd_zero : after { start 0xC300 [] with rand := [0xB7] } (fun t => t.reg 3 == 0 && t.rand == []) = true := by
  decide

/-! ### Sprite draw (2.8, and S7 of Part 1) -/

/-- S7: the columns wrap. -/
theorem test_drw_wraps :
    after (startAt 0xD121 0x300 [0xFF] [(1, 0x3C)])
      (fun t => [60, 61, 62, 63, 0, 1, 2, 3].all (fun px => t.pixel px 0) && !t.pixel 4 0 && !t.pixel 59 0 &&
        t.reg 15 == 0) = true := by decide
/-- D3: a collision. -/
theorem test_drw_collides :
    after ((startAt 0xD121 0x300 [0xC0] []).setFb (Framebuffer.setPixel clearFb 0 0 true))
      (fun t => !t.pixel 0 0 && t.pixel 1 0 && t.reg 15 == 1 && t.repaints == 1) = true := by decide

/-! ### Input (2.9) -/

/-- The keypad with key A pressed and no other. -/
def keyA : Keypad := (Vector.replicate 16 false).set 10 true

/-- I1 and I5. -/
theorem test_skp : after { start 0xE59E [(5, 0x0A)] with keys := keyA } (fun t => t.pc == 0x204) = true := by decide
theorem test_skp_fault : faults (start 0xE59E [(5, 0x10)]) (.invalidKeyIndex 0x10) (some 0xE59E) = true := by decide
/-- I4 and I3. -/
theorem test_sknp : after (start 0xE5A1 [(5, 0x0A)]) (fun t => t.pc == 0x204) = true := by decide
theorem test_sknp_not : after { start 0xE5A1 [(5, 0x0A)] with keys := keyA } (fun t => t.pc == 0x202) = true := by decide

/-! ### Timers and glyph (2.10) -/

/-- T1 to T3. -/
theorem test_ldVxDt : after { start 0xF407 [] with dt := 0x3C } (fun t => t.reg 4 == 0x3C && t.dt == 0x3C) = true := by
  decide
theorem test_ldDtVx : after (start 0xF415 [(4, 0x3C)]) (fun t => t.dt == 0x3C && t.st == 0) = true := by decide
theorem test_ldStVx : after (start 0xF418 [(4, 0x05)]) (fun t => t.st == 0x05 && t.dt == 0) = true := by decide
/-- T9 and T10. -/
theorem test_ldF : after (start 0xF029 [(0, 0x0F)]) (fun t => t.i == 0x04B) = true := by decide
theorem test_ldF_fault : faults (start 0xF029 [(0, 0x10)]) (.invalidGlyphDigit 0x10) (some 0xF029) = true := by decide

/-! ### Tick, halt, reset, loader (2.10, 2.11) -/

/-- A record, as UnknownOpcode leaves it at 0x200. -/
def aRecord : FaultRecord := { kind := .unknownOpcode, pc := 0x200, opcode := some 0x0000 }

/-- T5. -/
theorem test_tick :
    after { State.reset with st := 3, driver := [.tick] } (fun t => t.dt == 0 && t.st == 2 && t.driver == []) = true := by
  decide
/-- T6. -/
theorem test_tick_halted :
    after { State.reset with dt := 2, fault := some { kind := .stackOverflow, pc := 0x200, opcode := some 0x2300 },
                             driver := [.tick] }
      (fun t => t.dt == 1 && t.fault != none) = true := by decide
/-- H1. -/
theorem test_halted :
    after { start 0xC3FF [] with fault := some aRecord, rand := [0xB7] }
      (fun t => t.rand == [0xB7] && t.pc == 0x200 && t.fault == some aRecord && t.repaints == 0) = true := by decide
/-- H2. -/
theorem test_reset :
    after { State.reset with fault := some aRecord, pc := 0x300, sp := 5, driver := [.reset] }
      (fun t => t.fault == none && t.pc == 0x200 && t.sp == 0) = true := by decide
/-- The codes of the kinds, in the order of R200's table (60_exceptions.md R200); 16 is LoadRom's report. -/
theorem test_codes :
    [Fault.unknownOpcode, .stackOverflow, .stackUnderflow, .outOfBoundsAccess 0x1000, .invalidKeyIndex 0x10,
      .invalidGlyphDigit 0x10, .protectedWrite 0x04F].map Fault.code = [1, 2, 3, 4, 5, 6, 7] ∧
      (LoadError.romTooLarge 3585).code = 16 := by decide
/-- LoadRom puts its bytes from 0x200 up (70_reset_and_hazards.md R232), and is refused after a Cycle (R234). -/
theorem test_loadRom :
    after { State.reset with driver := [.loadRom [0x12, 0x34]] }
      (fun t => t.byteAt 0x200 == 0x12 && t.byteAt 0x201 == 0x34 && t.loadReport == none) = true := by decide
theorem test_loadRom_late :
    refusedAs { State.reset with started := true, driver := [.loadRom [0x12, 0x34]] } .loadRomAfterCycle = true := by
  decide

/-! ### Witnesses: for each obligation with hypotheses, states and operands that meet them, clause by clause -/

/-- The step of `s` answers a next state in which no fault is recorded and which passes `p`. -/
def runs (i : Instr) (s : State) (p : State → Bool) : Bool :=
  match exec i s with
  | .next t => t.fault == none && p t
  | .fault _ => false
  | .refused _ => false

/-- From `runs` to the next state itself. -/
theorem next_of_runs {i : Instr} {s : State} {p : State → Bool} (h : runs i s p = true) :
    ∃ t, exec i s = .next t ∧ t.fault = none ∧ p t = true := by
  unfold runs at h
  split at h
  · next t e => simp only [Bool.and_eq_true, beq_iff_eq] at h; exact ⟨t, e, h.1, h.2⟩
  · simp at h
  · simp at h

/-- From `after` to the next state itself. -/
theorem next_of_after {s : State} {p : State → Bool} (h : after s p = true) :
    ∃ t, step s = .next t ∧ p t = true := by
  unfold after at h
  split at h
  · next t e => exact ⟨t, e, h⟩
  · simp at h
  · simp at h

theorem witness_DecodeUndoesEncode : Instr.wf (.drw 1 2 15) = true := by decide
theorem witness_EncodeUndoesDecode : decodeWord 0x812E = .ok (.shlReg 1 2) := by decide

/-- `s` with a Cycle and then a Tick queued. -/
def queued (s : State) : State := { s with driver := [.cycle, .tick] }

/-- Both ways in which the next transaction is a Cycle. -/
theorem cycleNext_unqueued {s : State} (h : s.driver = []) : CycleNext s [] := .inl ⟨h, rfl⟩
theorem cycleNext_queued (s : State) : CycleNext (queued s) [.tick] := .inr rfl

/-- IllegalWordsRaiseUnknownOpcode and the second clause of CycleFetchesDecodesExecutes. -/
theorem witness_IllegalWords :
    CycleNext State.reset [] ∧ State.reset.fault = none ∧ State.reset.fetch = .ok 0x0000 ∧
      decodeWord 0x0000 = .error (.unknownOpcode 0x0000) := ⟨cycleNext_unqueued rfl, by decide⟩
theorem witness_IllegalWords_queued :
    CycleNext (queued State.reset) [.tick] ∧ (queued State.reset).fault = none ∧
      (queued State.reset).fetch = .ok 0x0000 ∧ decodeWord 0x0000 = .error (.unknownOpcode 0x0000) :=
  ⟨cycleNext_queued _, by decide⟩

theorem witness_Fetch :
    ({ State.reset with pc := 0xFFE }).pc.toNat ≤ 0xFFE ∧ ({ State.reset with pc := 0xFFF }).pc.toNat = 0xFFF ∧
      0xFFF < ({ State.reset with pc := 0x1000 }).pc.toNat ∧ 0xFFF < ({ State.reset with pc := 0xFFFF }).pc.toNat := by
  decide

theorem witness_Cycle_fetchFault :
    CycleNext { State.reset with pc := 0xFFF } [] ∧ ({ State.reset with pc := 0xFFF }).fault = none ∧
      ({ State.reset with pc := 0xFFF }).fetch = .error (.outOfBoundsAccess 0x1000) :=
  ⟨cycleNext_unqueued rfl, by decide⟩
theorem witness_Cycle_fetchFault_queued :
    CycleNext (queued { State.reset with pc := 0xFFF }) [.tick] ∧
      (queued { State.reset with pc := 0xFFF }).fault = none ∧
      (queued { State.reset with pc := 0xFFF }).fetch = .error (.outOfBoundsAccess 0x1000) :=
  ⟨cycleNext_queued _, by decide⟩
theorem witness_Cycle_decoded :
    CycleNext (start 0x6A2B []) [] ∧ (start 0x6A2B []).fault = none ∧ (start 0x6A2B []).fetch = .ok 0x6A2B ∧
      decodeWord 0x6A2B = .ok (.ldImm 10 0x2B) := ⟨cycleNext_unqueued rfl, by decide⟩
theorem witness_Cycle_decoded_queued :
    CycleNext (queued (start 0x6A2B [])) [.tick] ∧ (queued (start 0x6A2B [])).fault = none ∧
      (queued (start 0x6A2B [])).fetch = .ok 0x6A2B ∧ decodeWord 0x6A2B = .ok (.ldImm 10 0x2B) :=
  ⟨cycleNext_queued _, by decide⟩

/-- A decoded instruction with nothing queued, at PC = 0xFFE. -/
def atTheEnd (driver : List Transaction) : State :=
  { State.reset with pc := 0xFFE, driver := driver }.storeBytes 0xFFE [0x60, 0x05]

theorem witness_StepRuns :
    ∀ d ∈ [[], [Transaction.cycle, .tick]], (atTheEnd d).fault = none ∧ (atTheEnd d).pc.toNat ≤ 0xFFE ∧
      (atTheEnd d).driver = d ∧
      decode [(atTheEnd d).byteAt (atTheEnd d).pc.toNat, (atTheEnd d).byteAt ((atTheEnd d).pc.toNat + 1)] =
        .ok (.ldImm 0 0x05, []) := by decide

theorem witness_Halted :
    ∀ d ∈ [[], [Transaction.cycle], [.tick, .cycle]],
      ({ State.reset with fault := some aRecord, driver := d }).fault ≠ none ∧
        ({ State.reset with fault := some aRecord, driver := d }).driver = d := by decide

theorem witness_Tick :
    ({ State.reset with dt := 1, driver := [.tick] }).driver = .tick :: [] ∧
      0 < ({ State.reset with dt := 1, driver := [.tick] }).dt.toNat ∧
      ({ State.reset with dt := 1, driver := [.tick] }).st.toNat = 0 ∧
      ({ State.reset with st := 255, driver := [.tick] }).dt.toNat = 0 ∧
      0 < ({ State.reset with st := 255, driver := [.tick] }).st.toNat := by decide

/-- Parameters that differ from the simulator's in every field. -/
def otherParams : Params where
  glyphTable := Vector.replicate 80 0x11
  initV := Vector.replicate 16 0x22
  initI := 0x0333
  initDt := 0x44
  initSt := 0x55
  initMem := [(0x50, 0x66), (0xFFF, 0x77)]
  initFb := Vector.replicate 32 (Vector.replicate 64 true)
  vfAliasPolicy := .refuse

theorem witness_ParamsWf_other : ParamsWf otherParams := by
  refine ⟨?_, ?_⟩
  · show Memory.wf (unlistedByte otherParams) [(0x50, 0x66), (0xFFF, 0x77)]
    decide
  · show ∀ c ∈ ([(0x50, 0x66), (0xFFF, 0x77)] : Memory), 0x04F < c.1
    decide

theorem witness_ParamsWf : ParamsWf simulatorParams := by
  refine ⟨?_, ?_⟩
  · show Memory.wf (unlistedByte simulatorParams) []
    decide
  · show ∀ c ∈ ([] : Memory), 0x04F < c.1
    decide

theorem witness_Reset :
    ({ State.reset with params := otherParams, fault := some aRecord, driver := [.reset] }).driver = .reset :: [] ∧
      ParamsWf ({ State.reset with params := otherParams, fault := some aRecord, driver := [.reset] }).params :=
  ⟨rfl, witness_ParamsWf_other⟩

/-- A block with a ROM of `n` bytes queued. -/
def loading (n : Nat) : State := { State.reset with driver := [.loadRom (List.replicate n 0xAA)] }

theorem witness_LoadRom :
    (loading 3584).driver = .loadRom (List.replicate 3584 0xAA) :: [] ∧ (loading 3584).started = false ∧
      (List.replicate 3584 (0xAA : Byte)).length ≤ 3584 ∧
      (loading 3585).driver = .loadRom (List.replicate 3585 0xAA) :: [] ∧ (loading 3585).started = false ∧
      3584 < (List.replicate 3585 (0xAA : Byte)).length := by
  simp only [List.length_replicate]
  exact ⟨rfl, rfl, Nat.le_refl _, rfl, rfl, Nat.lt_succ_self _⟩

theorem witness_LoadRomOnly_late :
    ({ loading 2 with started := true }).driver = .loadRom [0xAA, 0xAA] :: [] ∧
      ({ loading 2 with started := true }).started = true := ⟨rfl, rfl⟩
theorem witness_LoadRomOnly_first :
    CycleNext State.reset [] ∧ State.reset.fault = none ∧ ∃ t, step State.reset = .next t := by
  refine ⟨cycleNext_unqueued rfl, rfl, ?_⟩
  obtain ⟨t, e, -⟩ := next_of_after (s := State.reset) (p := fun _ => true) (by decide)
  exact ⟨t, e⟩
theorem witness_LoadRomOnly_first_queued :
    CycleNext (queued State.reset) [.tick] ∧ (queued State.reset).fault = none ∧
      ∃ t, step (queued State.reset) = .next t := by
  refine ⟨cycleNext_queued _, rfl, ?_⟩
  obtain ⟨t, e, -⟩ := next_of_after (s := queued State.reset) (p := fun _ => true) (by decide)
  exact ⟨t, e⟩
theorem witness_LoadRomOnly_reset :
    ({ State.reset with started := true, driver := [.reset, .tick] }).driver = .reset :: [.tick] := rfl

theorem witness_Transactions :
    ({ State.reset with driver := [.setKeys keyA, .cycle] }).driver = .setKeys keyA :: [.cycle] ∧
      ∃ t, step { State.reset with driver := [.setKeys keyA, .cycle] } = .next t := by
  refine ⟨rfl, ?_⟩
  obtain ⟨t, e, -⟩ := next_of_after (s := { State.reset with driver := [.setKeys keyA, .cycle] }) (p := fun _ => true)
    (by decide)
  exact ⟨t, e⟩

/-- The reset state with `n` live stack entries. -/
def depth (n : Fin 17) : State := { State.reset with sp := n, stack := Vector.replicate 16 0x206 }

theorem witness_Ret :
    (depth 1).sp.val = (0 : Fin 16).val + 1 ∧ (depth 16).sp.val = (15 : Fin 16).val + 1 ∧ (depth 0).sp = 0 := by decide
theorem witness_Call :
    (depth 0).sp.val = (0 : Fin 16).val ∧ (depth 15).sp.val = (15 : Fin 16).val ∧ (depth 16).sp = 16 := by decide
theorem witness_RetUndoesCall : (depth 15).sp.val < 16 := by decide

/-- The alias premise: no alias under refuse; x = F, y = F and both under snapshot. The flag clause: x is not F. -/
theorem witness_Alias_none : AliasRuns ((1 : Reg) = vF ∨ (2 : Reg) = vF) (refusing State.reset) ∧ (1 : Reg) ≠ vF :=
  ⟨.inl (by decide), by decide⟩
theorem witness_Alias_x : AliasRuns ((15 : Reg) = vF ∨ (2 : Reg) = vF) State.reset := .inr rfl
theorem witness_Alias_y : AliasRuns ((1 : Reg) = vF ∨ (15 : Reg) = vF) State.reset ∧ (1 : Reg) ≠ vF :=
  ⟨.inr rfl, by decide⟩
theorem witness_Shift : AliasRuns ((15 : Reg) = vF) State.reset ∧
    AliasRuns ((2 : Reg) = vF) (refusing State.reset) ∧ (2 : Reg) ≠ vF := ⟨.inr rfl, .inl (by decide), by decide⟩
theorem witness_Refuse : (refusing State.reset).params.vfAliasPolicy = .refuse ∧
    ((15 : Reg) = vF ∨ (2 : Reg) = vF) ∧ (15 : Reg) = vF := by decide

/-- The reset state with I = `i` and V0 = `b`. -/
def indexed (i : Word) (b : Byte) : State := (State.reset.setI i).setReg 0 b

theorem witness_AddI :
    (indexed 0xFFFE 1).i.toNat + ((indexed 0xFFFE 1).reg 0).toNat ≤ 0xFFFF ∧
      0xFFFF < (indexed 0xFFFF 1).i.toNat + ((indexed 0xFFFF 1).reg 0).toNat := by decide
theorem witness_LdB :
    (0x50 ≤ (indexed 0x50 255).i.toNat ∧ (indexed 0x50 255).i.toNat + 2 ≤ 0xFFF) ∧
      (0x50 ≤ (indexed 0xFFD 255).i.toNat ∧ (indexed 0xFFD 255).i.toNat + 2 ≤ 0xFFF) ∧
      (indexed 0x4F 0).i.toNat ≤ 0x4F ∧ 0xFFF < (indexed 0xFFE 0).i.toNat + 2 ∧
      0xFFF < (indexed 0xFFFF 0).i.toNat + 2 := by decide
/-- StoreRegsStoresAndAdvances, and in its first two lines StoreThenLoadRestoresRegisters. -/
theorem witness_StoreRegs :
    (0x50 ≤ (indexed 0x50 0).i.toNat ∧ (indexed 0x50 0).i.toNat + (15 : Reg).val ≤ 0xFFF) ∧
      (0x50 ≤ (indexed 0xFF0 0).i.toNat ∧ (indexed 0xFF0 0).i.toNat + (15 : Reg).val ≤ 0xFFF) ∧
      (indexed 0x4F 0).i.toNat ≤ 0x4F ∧ 0xFFF < (indexed 0xFF1 0).i.toNat + (15 : Reg).val ∧
      0xFFF < (indexed 0x1000 0).i.toNat + (0 : Reg).val := by decide
theorem witness_LoadRegs :
    (indexed 0x000 0).i.toNat + (15 : Reg).val ≤ 0xFFF ∧ (indexed 0xFFF 0).i.toNat + (0 : Reg).val ≤ 0xFFF ∧
      0xFFF < (indexed 0xFF1 0).i.toNat + (15 : Reg).val := by decide
theorem witness_FetchSeesStored :
    1 ≤ (1 : Reg).val ∧ 0x50 ≤ (indexed 0x20A 0).i.toNat ∧ (indexed 0x20A 0).i.toNat + (1 : Reg).val ≤ 0xFFF := by decide

theorem witness_Rnd :
    ({ State.reset with rand := [0xB7] }).rand = 0xB7 :: [] ∧ State.reset.rand = [] := by decide

theorem witness_Keys :
    ((indexed 0 15).reg 0).toNat = (15 : Fin 16).val ∧ 0x0F < ((indexed 0 16).reg 0).toNat := by decide
theorem witness_LdF :
    ((indexed 0 0x0F).reg 0).toNat ≤ 0x0F ∧ 0x0F < ((indexed 0 0x10).reg 0).toNat := by decide

theorem witness_Draw :
    (15 ≤ 15 ∧ (15 = 0 ∨ (indexed 0xFF1 0).i.toNat + 15 ≤ 0x1000)) ∧
      (0 ≤ 15 ∧ (0 = 0 ∨ (indexed 0xFFFF 0).i.toNat + 0 ≤ 0x1000)) := by decide

/-- A row 0x80 drawn at (200, 40): it lands on (8, 8) (95_test_vectors.md D2). -/
def drawing (fb : Framebuffer) : State := (startAt 0xD121 0x300 [0x80] [(1, 0xC8), (2, 0x28)]).setFb fb

theorem witness_Draw_sets (fb : Framebuffer) : SpriteSets (drawing fb) 200 40 1 8 8 :=
  ⟨0, by decide, 0, by decide, by decide, by decide, by
    show ((startAt 0xD121 0x300 [0x80] [(1, 0xC8), (2, 0x28)]).byteAt 0x300).getLsbD 7 = true
    decide⟩
theorem witness_Draw_leaves (fb : Framebuffer) : ¬ SpriteSets (drawing fb) 200 40 1 9 8 := by
  rintro ⟨r, hr, b, hb, e, -, hbit⟩
  have hr0 : r = 0 := by omega
  have hb1 : b = 1 := by omega
  subst hr0 hb1
  revert hbit
  show ¬ ((startAt 0xD121 0x300 [0x80] [(1, 0xC8), (2, 0x28)]).byteAt 0x300).getLsbD 6 = true
  decide
theorem witness_Draw_collides :
    8 < 64 ∧ 8 < 32 ∧ (drawing (Framebuffer.setPixel clearFb 8 8 true)).pixel 8 8 = true ∧
      SpriteSets (drawing (Framebuffer.setPixel clearFb 8 8 true)) 200 40 1 8 8 :=
  ⟨by decide, by decide, by decide, witness_Draw_sets _⟩
theorem witness_Draw_misses :
    ∀ px py, px < 64 → py < 32 → (drawing clearFb).pixel px py = true →
      ¬ SpriteSets (drawing clearFb) 200 40 1 px py := by
  intro px py _ _ h
  rw [show (drawing clearFb).pixel px py = Framebuffer.pixel clearFb px py from rfl, pixel_clearFb] at h
  cases h
theorem witness_DrawOutOfBounds : 2 ≠ 0 ∧ 0x1000 < (indexed 0xFFF 0).i.toNat + 2 := by decide

/-- The first draw leaves V1 and V2, and it can meet an unset pixel, or set pixels alone. -/
theorem witness_DrawTwice :
    (∃ t, exec (.drw 1 2 1) (drawing clearFb) = .next t ∧ t.reg 1 = (drawing clearFb).reg 1 ∧
      t.reg 2 = (drawing clearFb).reg 2) ∧ (drawing clearFb).pixel 8 8 = false ∧
      SpriteSets (drawing clearFb) 200 40 1 8 8 := by
  refine ⟨?_, by decide, witness_Draw_sets _⟩
  obtain ⟨t, e, -, h⟩ := next_of_runs (i := .drw 1 2 1) (s := drawing clearFb)
    (p := fun t => t.reg 1 == (drawing clearFb).reg 1 && t.reg 2 == (drawing clearFb).reg 2) (by decide)
  simp only [Bool.and_eq_true, beq_iff_eq] at h
  exact ⟨t, e, h.1, h.2⟩
theorem witness_DrawTwice_allSet :
    ∀ px py, px < 64 → py < 32 →
      (drawing (Vector.replicate 32 (Vector.replicate 64 true))).pixel px py = false →
        ¬ SpriteSets (drawing (Vector.replicate 32 (Vector.replicate 64 true))) 200 40 1 px py := by
  intro px py _ _ h
  rw [show (drawing (Vector.replicate 32 (Vector.replicate 64 true))).pixel px py =
    Framebuffer.pixel (Vector.replicate 32 (Vector.replicate 64 true)) px py from rfl] at h
  simp [Framebuffer.pixel] at h

/-- FaultsAreThoseListed and FaultEntryWritesOnlyTheRecord: RET on an empty stack. -/
theorem witness_Faults :
    State.reset.fault = none ∧ ∃ t, exec .ret State.reset = .next t ∧
      t.fault = some { kind := .stackUnderflow, pc := 0x200, opcode := some 0x00EE } := ⟨rfl, _, rfl, by decide⟩

/-- PcAfterEachOutcome: a running jump, return, skip and plain instruction, at 0x200 and at the last PC, 0xFFE. -/
theorem witness_Pc :
    ∀ pc ∈ [(0x200 : Word), 0xFFE],
      ∀ i ∈ [Instr.jp 0xFFF, .call 0x300, .jpV0 0xFFF, .ret, .seImm 0 0, .skp 0, .cls, .drw 0 0 15],
        ((depth 3).setPc pc).pc.toNat ≤ 0xFFE ∧ ∃ t, exec i ((depth 3).setPc pc) = .next t ∧ t.fault = none := by
  intro pc hpc i hi
  have h : ((depth 3).setPc pc).pc.toNat ≤ 0xFFE ∧ runs i ((depth 3).setPc pc) (fun _ => true) = true := by
    simp only [List.mem_cons, List.not_mem_nil, or_false] at hpc hi
    rcases hpc with rfl | rfl <;> rcases hi with rfl | rfl | rfl | rfl | rfl | rfl | rfl | rfl <;> decide
  obtain ⟨t, e, hf, -⟩ := next_of_runs h.2
  exact ⟨h.1, t, e, hf⟩

/-- OnlyCallAndRetUseTheStack, OnlyClsAndDrwTouchTheScreen and OnlyInputInstructionsReadInputs: ADD Vx, Vy. -/
theorem witness_OtherInstructions :
    (Instr.addReg 1 2 ≠ .ret ∧ (∀ nnn, Instr.addReg 1 2 ≠ .call nnn) ∧ Instr.addReg 1 2 ≠ .cls ∧
      (∀ x y n, Instr.addReg 1 2 ≠ .drw x y n) ∧ (∀ x, Instr.addReg 1 2 ≠ .skp x) ∧
      (∀ x, Instr.addReg 1 2 ≠ .sknp x) ∧ (∀ x kk, Instr.addReg 1 2 ≠ .rnd x kk)) ∧
      ∃ t, exec (.addReg 1 2) State.reset = .next t ∧ t.fault = none := by
  refine ⟨by simp, ?_⟩
  obtain ⟨t, e, hf, -⟩ := next_of_runs (i := .addReg 1 2) (s := State.reset) (p := fun _ => true) (by decide)
  exact ⟨t, e, hf⟩

/-- IndexAndTimerWriters: each of I, DT and ST can change. -/
theorem witness_IndexWriter : ∃ t, exec (.ldI 0x300) State.reset = .next t ∧ t.fault = none ∧ t.i ≠ State.reset.i := by
  obtain ⟨t, e, hf, h⟩ := next_of_runs (i := .ldI 0x300) (s := State.reset) (p := fun t => t.i != State.reset.i) (by decide)
  exact ⟨t, e, hf, by simpa using h⟩
theorem witness_TimerWriters :
    (∃ t, exec (.ldDtVx 0) (indexed 0 9) = .next t ∧ t.fault = none ∧ t.dt ≠ (indexed 0 9).dt) ∧
      (∃ t, exec (.ldStVx 0) (indexed 0 9) = .next t ∧ t.fault = none ∧ t.st ≠ (indexed 0 9).st) ∧
      ∀ x, Instr.ldI 0x300 ≠ .ldStVx x := by
  refine ⟨?_, ?_, by simp⟩
  · obtain ⟨t, e, hf, h⟩ := next_of_runs (i := .ldDtVx 0) (s := indexed 0 9) (p := fun t => t.dt != (indexed 0 9).dt)
      (by decide)
    exact ⟨t, e, hf, by simpa using h⟩
  · obtain ⟨t, e, hf, h⟩ := next_of_runs (i := .ldStVx 0) (s := indexed 0 9) (p := fun t => t.st != (indexed 0 9).st)
      (by decide)
    exact ⟨t, e, hf, by simpa using h⟩

/-- MemoryWriters: the last byte of LD B and of LD [I]. -/
theorem witness_MemoryWriters :
    (∃ t, exec (.ldB 0) (indexed 0x300 9) = .next t ∧ t.fault = none ∧
      t.byteAt 0x302 ≠ (indexed 0x300 9).byteAt 0x302) ∧
      ∃ t, exec (.storeRegs 0) (indexed 0x300 9) = .next t ∧ t.fault = none ∧
        t.byteAt 0x300 ≠ (indexed 0x300 9).byteAt 0x300 := by
  constructor
  · obtain ⟨t, e, hf, h⟩ := next_of_runs (i := .ldB 0) (s := indexed 0x300 9)
      (p := fun t => t.byteAt 0x302 != (indexed 0x300 9).byteAt 0x302) (by decide)
    exact ⟨t, e, hf, by simpa using h⟩
  · obtain ⟨t, e, hf, h⟩ := next_of_runs (i := .storeRegs 0) (s := indexed 0x300 9)
      (p := fun t => t.byteAt 0x300 != (indexed 0x300 9).byteAt 0x300) (by decide)
    exact ⟨t, e, hf, by simpa using h⟩

/-- RegisterWriters: a destination, and VF as a flag. -/
theorem witness_RegisterWriters :
    ∃ t, exec (.addReg 0 0) (indexed 0 0x90) = .next t ∧ t.fault = none ∧ t.reg 0 ≠ (indexed 0 0x90).reg 0 ∧
      t.reg vF ≠ (indexed 0 0x90).reg vF := by
  obtain ⟨t, e, hf, h⟩ := next_of_runs (i := .addReg 0 0) (s := indexed 0 0x90)
    (p := fun t => t.reg 0 != (indexed 0 0x90).reg 0 && t.reg vF != (indexed 0 0x90).reg vF) (by decide)
  simp only [Bool.and_eq_true, bne_iff_ne] at h
  exact ⟨t, e, hf, h.1, h.2⟩

/-- DelayTimerOnlyFalls: a Tick at DT = 1, with CLS at PC. -/
theorem witness_DelayTimer :
    (∃ t, step { start 0x00E0 [] with dt := 1, driver := [.tick] } = .next t ∧ t.fault = none ∧ t.dt = 0) ∧
      (∀ rest, ({ start 0x00E0 [] with dt := 1, driver := [.tick] }).driver ≠ .reset :: rest) ∧
      ∀ w x, ({ start 0x00E0 [] with dt := 1, driver := [.tick] }).fetch = .ok w → decodeWord w ≠ .ok (.ldDtVx x) := by
  refine ⟨?_, by simp, ?_⟩
  · obtain ⟨t, e, h⟩ := next_of_after (s := { start 0x00E0 [] with dt := 1, driver := [.tick] })
      (p := fun t => t.fault == none && t.dt == 0) (by decide)
    simp only [Bool.and_eq_true, beq_iff_eq] at h
    exact ⟨t, e, h.1, h.2⟩
  · intro w x h
    have e : ({ start 0x00E0 [] with dt := 1, driver := [.tick] }).fetch = .ok 0x00E0 := by decide
    rw [e] at h
    cases h
    rw [show decodeWord 0x00E0 = .ok .cls by decide]
    exact fun h => nomatch h

/-- SelfJumpChangesNothing: 0x1200 at 0x200 (C6). -/
theorem witness_SelfJump :
    CycleNext (start 0x1200 []) [] ∧ (start 0x1200 []).fault = none ∧ SelfJump (start 0x1200 []) :=
  ⟨cycleNext_unqueued rfl, rfl, 0x200, by decide, by decide⟩
theorem witness_SelfJump_queued :
    CycleNext (queued (start 0x1200 [])) [.tick] ∧ (queued (start 0x1200 [])).fault = none ∧
      SelfJump (queued (start 0x1200 [])) :=
  ⟨cycleNext_queued _, rfl, 0x200, by decide, by decide⟩

/-- ParametersNeverChange, StepKeepsMemoryInvariant, GlyphTableIsImmutable: a step that stores a byte. -/
theorem witness_MemoryInv : MemoryInv (startAt 0xF033 0x300 [0x12] [(0, 0xEA)]) := by
  refine ⟨?_, ?_, witness_ParamsWf⟩
  · show Memory.wf (unlistedByte simulatorParams) _
    decide
  · decide
theorem witness_MemoryInv_step :
    ∃ t, step (startAt 0xF033 0x300 [0x12] [(0, 0xEA)]) = .next t ∧ t.fault = none := by
  obtain ⟨t, e, h⟩ := next_of_after (s := startAt 0xF033 0x300 [0x12] [(0, 0xEA)]) (p := fun t => t.fault == none)
    (by decide)
  exact ⟨t, e, by simpa using h⟩

/-- StepKeepsPcInvariant: PC and a return address at their bounds, and RET taken from one. -/
theorem witness_PcInv :
    PcInv { State.reset with pc := 0x10FE } ∧ PcInv { start 0x00EE [] with sp := 1, stack := Vector.replicate 16 0x1000 } ∧
      ∃ t, step { start 0x00EE [] with sp := 1, stack := Vector.replicate 16 0x1000 } = .next t := by
  refine ⟨⟨by decide, by decide⟩, ⟨by decide, by decide⟩, ?_⟩
  obtain ⟨t, e, -⟩ := next_of_after (s := { start 0x00EE [] with sp := 1, stack := Vector.replicate 16 0x1000 })
    (p := fun t => t.pc == 0x1000) (by decide)
  exact ⟨t, e⟩

end Sys2Proof.Tests
end

section
/-! PROOFS. The parameters are fixed for a block (00_scope.md R5): every transaction keeps them. -/

namespace Sys2Proof.Machine

/-- Halted, faulting or executing, a Cycle keeps the parameters. -/
theorem cycle_keeps_params {s t : State} (h : cycle s = .next t) : t.params = s.params := by
  rcases cycle_cases s with ⟨-, hc⟩ | ⟨-, f, w, -, hc⟩ | ⟨-, w, i, -, -, hc⟩
  · cases hc.symm.trans h
    rfl
  · cases hc.symm.trans h
    rfl
  · obtain ⟨-, -, hp, -, -⟩ := exec_keeps_order (hc.symm.trans h)
    exact hp

/-- Whether it copies the ROM or reports it as too large, LoadRom keeps the parameters. -/
theorem loadRom_keeps_params {bytes : List Byte} {s t : State} (h : loadRom bytes s = .next t) :
    t.params = s.params := by
  rcases loadRom_cases bytes s with ⟨-, hr⟩ | ⟨-, -, hr⟩ | ⟨-, -, hr⟩
  · cases hr.symm.trans h
  · cases hr.symm.trans h
    rfl
  · cases hr.symm.trans h
    rfl

@[simp] theorem tick_params (s : State) : (tick s).params = s.params := rfl

@[simp] theorem resetBlock_params (s : State) : (resetBlock s).params = s.params := rfl

@[simp] theorem setKeys_params (keys : Keypad) (s : State) : (setKeys keys s).params = s.params := rfl

/-- Settles O56, by cases on the transaction the step performs. -/
theorem parametersNeverChange : Obligations.ParametersNeverChange := by
  intro s t h
  rcases step_cases s with ⟨rest, -, hs⟩ | ⟨rest, -, hs⟩ | ⟨rest, -, hs⟩ | ⟨bytes, rest, -, hs⟩ |
    ⟨keys, rest, -, hs⟩ <;> rw [hs] at h
  · simpa using cycle_keeps_params h
  · cases h
    exact tick_params _
  · cases h
    exact resetBlock_params _
  · simpa using loadRom_keeps_params h
  · cases h
    exact setKeys_params keys _

end Sys2Proof.Machine
end

section
/-! PROOFS. The stack and PC (10_state.md R24, R25): what leaves the stack alone, and the invariant on PC and the live
return addresses. -/

namespace Sys2Proof.Machine

open Sys2Proof.Safety

/-- No effect but those of RET and CALL writes the stack or SP. -/
theorem effect_keeps_stack {i : Instr} (hr : i ≠ .ret) (hc : ∀ nnn, i ≠ .call nnn) (s : State) :
    (effect i s).stack = s.stack ∧ (effect i s).sp = s.sp := by
  cases i with
  | ret => exact absurd rfl hr
  | call nnn => exact absurd rfl (hc nnn)
  | _ => simp [effect]

/-- A fetch that succeeds has both its bytes in the address space (20_memory.md R54). -/
theorem State.pc_le_of_fetch_ok {s : State} {w : Word} (h : s.fetch = .ok w) : s.pc.toNat ≤ 0xFFE := by
  by_contra hpc
  rw [State.fetch_error (by omega)] at h
  cases h

/-- From where a fetch succeeds, `next` does not wrap (30_encoding.md R78). -/
theorem toNat_pc_add_two {pc : Word} (h : pc.toNat ≤ 0xFFE) : (pc + 2).toNat = pc.toNat + 2 := by
  rw [BitVec.toNat_add, show (2 : Word).toNat = 2 from rfl]
  omega

/-- From where a fetch succeeds, `skip` does not wrap (30_encoding.md R78). -/
theorem toNat_pc_add_four {pc : Word} (h : pc.toNat ≤ 0xFFE) : (pc + 4).toNat = pc.toNat + 4 := by
  rw [BitVec.toNat_add, show (4 : Word).toNat = 4 from rfl]
  omega

/-- From where a fetch succeeds, `skip` and `next` lead no further than 0x1002. -/
theorem toNat_pc_add_skip_le {pc : Word} (h : pc.toNat ≤ 0xFFE) (c : Bool) :
    (pc + if c then 4 else 2).toNat ≤ 0x1002 := by
  cases c
  · exact (toNat_pc_add_two h).trans_le (by omega)
  · exact (toNat_pc_add_four h).trans_le (by omega)

/-- No instruction but RET, which takes PC from the stack, leads beyond 0xFFF + 0xFF, where JP V0 ends at the most. -/
theorem effect_pc_le {i : Instr} {s : State} (hr : i ≠ .ret) (hpc : s.pc.toNat ≤ 0xFFE) :
    (effect i s).pc.toNat ≤ 0x10FE := by
  cases i with
  | ret => exact absurd rfl hr
  | jp nnn | call nnn =>
    have hn := nnn.isLt
    simp only [effect, State.setPc_pc, toNat_zextAddr]
    omega
  | jpV0 nnn =>
    have hn := nnn.isLt
    have hv := (s.reg 0).isLt
    simp only [effect, State.setPc_pc, toNat_u16]
    omega
  | seImm | sneImm | seReg | sneReg | skp | sknp =>
    exact (toNat_pc_add_skip_le hpc _).trans (by decide)
  | _ =>
    exact (toNat_pc_add_two hpc).trans_le (by omega)

/-- RET goes to a live return address and leaves fewer of them live. -/
theorem effect_ret_keeps_pcInv {s : State} (hg : Guard .ret s) (hi : PcInv s) : PcInv (effect .ret s) := by
  have hsp : s.sp.val ≠ 0 := hg
  obtain ⟨-, hstack⟩ := hi
  refine ⟨?_, fun k hk => hstack k (hk.trans_le (Nat.sub_le _ 1))⟩
  have htop : s.stack[s.sp.val - 1].toNat ≤ 0x1000 := hstack ⟨s.sp.val - 1, by omega⟩ (by simp only; omega)
  exact htop.trans (by decide)

/-- CALL makes one more return address live, the address behind the CALL. -/
theorem effect_call_keeps_pcInv {nnn : BitVec 12} {s : State} (hpc : s.pc.toNat ≤ 0xFFE) (hi : PcInv s) :
    PcInv (effect (.call nnn) s) := by
  refine ⟨effect_pc_le (by simp) hpc, fun k hk => ?_⟩
  have hk' : k.val < min (s.sp.val + 1) 16 := hk
  show ((s.stack.setIfInBounds s.sp.val (s.pc + 2))[k.val]).toNat ≤ 0x1000
  rw [Vector.getElem_setIfInBounds]
  split
  · exact (toNat_pc_add_two hpc).trans_le (by omega)
  · exact hi.2 k (by omega)

/-- The PC invariant reads PC, the stack and SP alone. -/
theorem pcInv_of_same_stack {s t : State} (hi : PcInv s) (hpc : t.pc.toNat ≤ 0x10FE) (hstack : t.stack = s.stack)
    (hsp : t.sp = s.sp) : PcInv t := by
  refine ⟨hpc, ?_⟩
  rw [hstack, hsp]
  exact hi.2

/-- An instruction that runs where it could be fetched keeps the PC invariant. -/
theorem effect_keeps_pcInv {i : Instr} {s : State} (hpc : s.pc.toNat ≤ 0xFFE) (hg : Guard i s) (hi : PcInv s) :
    PcInv (effect i s) := by
  by_cases hr : i = .ret
  · subst hr
    exact effect_ret_keeps_pcInv hg hi
  · by_cases hc : ∃ nnn, i = .call nnn
    · obtain ⟨nnn, rfl⟩ := hc
      exact effect_call_keeps_pcInv hpc hi
    · obtain ⟨hstack, hsp⟩ := effect_keeps_stack hr (fun nnn h => hc ⟨nnn, h⟩) s
      exact pcInv_of_same_stack hi (effect_pc_le hr hpc) hstack hsp

/-- Fetched, faulting or halted, a Cycle keeps the PC invariant. -/
theorem cycle_keeps_pcInv {s t : State} (hi : PcInv s) (h : cycle s = .next t) : PcInv t := by
  rcases cycle_cases s with ⟨-, hc⟩ | ⟨-, f, w, -, hc⟩ | ⟨-, w, i, hw, -, hc⟩
  · cases hc.symm.trans h
    exact hi
  · cases hc.symm.trans h
    exact hi
  · rcases exec_next_cases (hc.symm.trans h) with ⟨hg, rfl⟩ | ⟨f, -, rfl⟩
    · exact effect_keeps_pcInv (State.pc_le_of_fetch_ok hw) hg hi
    · exact hi

/-- Reset empties the stack and puts PC at 0x200. -/
theorem resetBlock_pcInv (s : State) : PcInv (resetBlock s) :=
  ⟨show (0x200 : Word).toNat ≤ 0x10FE by decide, fun k hk => absurd hk (Nat.not_lt_zero k.val)⟩

/-- LoadRom writes neither PC nor the stack. -/
theorem loadRom_keeps_pcInv {bytes : List Byte} {s t : State} (hi : PcInv s) (h : loadRom bytes s = .next t) :
    PcInv t := by
  rcases loadRom_cases bytes s with ⟨-, hr⟩ | ⟨-, -, hr⟩ | ⟨-, -, hr⟩
  · cases hr.symm.trans h
  · cases hr.symm.trans h
    exact hi
  · cases hr.symm.trans h
    exact hi

/-- Settles O59, by cases on the transaction the step performs. -/
theorem stepKeepsPcInvariant : Obligations.StepKeepsPcInvariant := by
  intro s t hi h
  rcases step_cases s with ⟨rest, -, hs⟩ | ⟨rest, -, hs⟩ | ⟨rest, -, hs⟩ | ⟨bytes, rest, -, hs⟩ |
    ⟨keys, rest, -, hs⟩ <;> rw [hs] at h
  · exact cycle_keeps_pcInv (s := { s with driver := rest }) hi h
  · cases h
    exact hi
  · cases h
    exact resetBlock_pcInv _
  · exact loadRom_keeps_pcInv (s := { s with driver := rest }) hi h
  · cases h
    exact hi

end Sys2Proof.Machine
end

section
/-! PROOFS. Who writes a part of the state and whose result depends on it (10_state.md R22 to R31): the stack, the
screen, I and the timers, the inputs, the registers. -/

namespace Sys2Proof.Machine

open Sys2Proof.Safety

/-! ### What a guard and an effect read -/

/-- A guard reads the registers, I and the parameters, and for RET and CALL also SP. -/
theorem guard_of_same_reads {i : Instr} {s t : State} (hg : Guard i s) (hv : t.v = s.v) (hi : t.i = s.i)
    (hp : t.params = s.params) (hsp : (i = .ret ∨ ∃ nnn, i = .call nnn) → t.sp = s.sp) : Guard i t := by
  cases i with
  | ret => simpa only [Guard, hsp (.inl rfl)] using hg
  | call nnn => simpa only [Guard, hsp (.inr ⟨nnn, rfl⟩)] using hg
  | addReg | subReg | shrReg | subnReg | shlReg => simpa only [Guard, hp] using hg
  | addI x => simpa only [Guard, State.reg, hv, hi] using hg
  | ldB | storeRegs | loadRegs | drw => simpa only [Guard, hi] using hg
  | skp | sknp | ldF => simpa only [Guard, State.reg, hv] using hg
  | _ => trivial

/-- The registers LD Vx,[I] leaves depend on the registers and on memory alone. -/
theorem loadedRegs_congr {s t : State} (hv : t.v = s.v) (hm : ∀ a, t.byteAt a = s.byteAt a) (a len : Nat) :
    t.loadedRegs a len = s.loadedRegs a len := by
  induction len with
  | zero => exact hv
  | succ k ih => simp only [State.loadedRegs, ih, hm]

/-- A random byte is taken off the supply, or counted when the supply is empty (44_random.md R150). -/
theorem State.consumeRandom_eq (s : State) :
    s.consumeRandom =
      { s with rand := s.rand.tail, draws := if s.rand = [] then s.draws + 1 else s.draws } := by
  cases h : s.rand with
  | nil => simp [State.consumeRandom, h]
  | cons b bs => simp [State.consumeRandom, h]

/-! ### The stack -/

/-- No effect but those of RET and CALL depends on the stack or SP. -/
theorem effect_with_stack {i : Instr} (hr : i ≠ .ret) (hc : ∀ nnn, i ≠ .call nnn) (s : State)
    (stack : Vector Word 16) (sp : Fin 17) :
    effect i { s with stack := stack, sp := sp } = { effect i s with stack := stack, sp := sp } := by
  cases i with
  | ret => exact absurd rfl hr
  | call nnn => exact absurd rfl (hc nnn)
  | loadRegs x =>
    have hload := loadedRegs_congr (s := s) (t := { s with stack := stack, sp := sp }) rfl (fun _ => rfl)
    simp only [effect, hload]
    rfl
  | rnd x kk =>
    simp only [effect, State.consumeRandom_eq]
    rfl
  | drw x y n =>
    have hblit := blitRows_congr (s := s) (t := { s with stack := stack, sp := sp }) rfl (fun _ => rfl)
    simp only [effect, hblit]
    rfl
  | _ => rfl

/-- Settles O48, from what the effects write and read of the stack. -/
theorem onlyCallAndRetUseTheStack : Obligations.OnlyCallAndRetUseTheStack := by
  intro i s t hr hc h hf
  obtain ⟨hg, rfl⟩ := exec_next_running h hf
  obtain ⟨hstack, hsp⟩ := effect_keeps_stack hr hc s
  refine ⟨hstack, hsp, fun stack sp => ?_⟩
  have hg' : Guard i { s with stack := stack, sp := sp } :=
    guard_of_same_reads hg rfl rfl rfl (fun hi => hi.elim (absurd · hr) (fun ⟨nnn, e⟩ => absurd e (hc nnn)))
  rw [exec_of_guard hg', effect_with_stack hr hc]

/-! ### The screen -/

/-- No effect but those of CLS and DRW writes the framebuffer or emits Repaint. -/
theorem effect_keeps_screen {i : Instr} (hc : i ≠ .cls) (hd : ∀ x y n, i ≠ .drw x y n) (s : State) :
    (effect i s).fb = s.fb ∧ (effect i s).repaints = s.repaints := by
  cases i with
  | cls => exact absurd rfl hc
  | drw x y n => exact absurd rfl (hd x y n)
  | _ => simp [effect]

/-- No effect but those of CLS and DRW depends on the framebuffer. -/
theorem effect_with_fb {i : Instr} (hc : i ≠ .cls) (hd : ∀ x y n, i ≠ .drw x y n) (s : State) (fb : Framebuffer) :
    effect i { s with fb := fb } = { effect i s with fb := fb } := by
  cases i with
  | cls => exact absurd rfl hc
  | drw x y n => exact absurd rfl (hd x y n)
  | loadRegs x =>
    have hload := loadedRegs_congr (s := s) (t := { s with fb := fb }) rfl (fun _ => rfl)
    simp only [effect, hload]
    rfl
  | rnd x kk =>
    simp only [effect, State.consumeRandom_eq]
    rfl
  | _ => rfl

/-- Settles O49, from what the effects write and read of the framebuffer. -/
theorem onlyClsAndDrwTouchTheScreen : Obligations.OnlyClsAndDrwTouchTheScreen := by
  intro i s t hc hd h hf
  obtain ⟨hg, rfl⟩ := exec_next_running h hf
  obtain ⟨hfb, hrep⟩ := effect_keeps_screen hc hd s
  refine ⟨hfb, hrep, fun fb => ?_⟩
  have hg' : Guard i { s with fb := fb } := guard_of_same_reads hg rfl rfl rfl (fun _ => rfl)
  rw [exec_of_guard hg', effect_with_fb hc hd]

/-! ### I and the timers -/

/-- The effects that write I are those of LD I, ADD I, LD F, LD [I] and LD Vx,[I]. -/
theorem effect_i_writers {i : Instr} {s : State} (h : (effect i s).i ≠ s.i) :
    (∃ nnn, i = .ldI nnn) ∨ ∃ x, i = .addI x ∨ i = .ldF x ∨ i = .storeRegs x ∨ i = .loadRegs x := by
  cases i with
  | ldI nnn => exact .inl ⟨nnn, rfl⟩
  | addI x => exact .inr ⟨x, .inl rfl⟩
  | ldF x => exact .inr ⟨x, .inr (.inl rfl)⟩
  | storeRegs x => exact .inr ⟨x, .inr (.inr (.inl rfl))⟩
  | loadRegs x => exact .inr ⟨x, .inr (.inr (.inr rfl))⟩
  | _ => exact absurd (by simp [effect]) h

/-- The effect that writes DT is that of LD DT, Vx. -/
theorem effect_dt_writer {i : Instr} {s : State} (h : (effect i s).dt ≠ s.dt) : ∃ x, i = .ldDtVx x := by
  cases i with
  | ldDtVx x => exact ⟨x, rfl⟩
  | _ => exact absurd (by simp [effect]) h

/-- The effect that writes ST is that of LD ST, Vx. -/
theorem effect_st_writer {i : Instr} {s : State} (h : (effect i s).st ≠ s.st) : ∃ x, i = .ldStVx x := by
  cases i with
  | ldStVx x => exact ⟨x, rfl⟩
  | _ => exact absurd (by simp [effect]) h

/-- No effect but that of LD ST, Vx, which writes it, depends on how ST stands. -/
theorem effect_with_st {i : Instr} (hst : ∀ x, i ≠ .ldStVx x) (s : State) (b : Byte) :
    effect i { s with st := b } = { effect i s with st := b } := by
  cases i with
  | ldStVx x => exact absurd rfl (hst x)
  | loadRegs x =>
    have hload := loadedRegs_congr (s := s) (t := { s with st := b }) rfl (fun _ => rfl)
    simp only [effect, hload]
    rfl
  | rnd x kk =>
    simp only [effect, State.consumeRandom_eq]
    rfl
  | drw x y n =>
    have hblit := blitRows_congr (s := s) (t := { s with st := b }) rfl (fun _ => rfl)
    simp only [effect, hblit]
    rfl
  | _ => rfl

/-- Settles O50, from the writers of I, DT and ST among the effects and from what they read of ST. -/
theorem indexAndTimerWriters : Obligations.IndexAndTimerWriters := by
  intro i s t h hf
  obtain ⟨hg, rfl⟩ := exec_next_running h hf
  refine ⟨effect_i_writers, effect_dt_writer, effect_st_writer, fun hst b => ?_⟩
  have hg' : Guard i { s with st := b } := guard_of_same_reads hg rfl rfl rfl (fun _ => rfl)
  rw [exec_of_guard hg', effect_with_st hst]

/-! ### The inputs -/

/-- No effect but that of RND consumes a random byte, and none writes the keypad. -/
theorem effect_keeps_inputs {i : Instr} (hr : ∀ x kk, i ≠ .rnd x kk) (s : State) :
    (effect i s).keys = s.keys ∧ (effect i s).rand = s.rand ∧ (effect i s).draws = s.draws := by
  cases i with
  | rnd x kk => exact absurd rfl (hr x kk)
  | _ => simp [effect]

/-- No effect but those of SKP, SKNP and RND depends on the keypad or the random supply. -/
theorem effect_with_inputs {i : Instr} (hp : ∀ x, i ≠ .skp x) (hn : ∀ x, i ≠ .sknp x)
    (hr : ∀ x kk, i ≠ .rnd x kk) (s : State) (keys : Keypad) (rand : List Byte) (draws : Nat) :
    effect i { s with keys := keys, rand := rand, draws := draws } =
      { effect i s with keys := keys, rand := rand, draws := draws } := by
  cases i with
  | skp x => exact absurd rfl (hp x)
  | sknp x => exact absurd rfl (hn x)
  | rnd x kk => exact absurd rfl (hr x kk)
  | loadRegs x =>
    have hload := loadedRegs_congr (s := s) (t := { s with keys := keys, rand := rand, draws := draws }) rfl
      (fun _ => rfl)
    simp only [effect, hload]
    rfl
  | drw x y n =>
    have hblit := blitRows_congr (s := s) (t := { s with keys := keys, rand := rand, draws := draws }) rfl
      (fun _ => rfl)
    simp only [effect, hblit]
    rfl
  | _ => rfl

/-- Settles O53, from what the effects write and read of the inputs. -/
theorem onlyInputInstructionsReadInputs : Obligations.OnlyInputInstructionsReadInputs := by
  intro i s t keys rand draws hp hn hr h hf
  obtain ⟨hg, rfl⟩ := exec_next_running h hf
  obtain ⟨hkeys, hrand, hdraws⟩ := effect_keeps_inputs hr s
  refine ⟨hkeys, hrand, hdraws, ?_⟩
  have hg' : Guard i { s with keys := keys, rand := rand, draws := draws } :=
    guard_of_same_reads hg rfl rfl rfl (fun _ => rfl)
  rw [exec_of_guard hg', effect_with_inputs hp hn hr]

/-! ### The registers -/

/-- Flag and result leave every register but VF and the destination. -/
theorem State.setFlagThenReg_reg_of_ne (s : State) {d x : Reg} (f b : Byte) (hd : x ≠ d) (hf : x ≠ vF) :
    (s.setFlagThenReg f d b).reg x = s.reg x := by
  simp [State.setFlagThenReg_reg, hd, hf]

/-- LD Vx,[I] leaves the registers above Vx. -/
theorem effect_loadRegs_reg_of_lt {x r : Reg} (h : x.val < r.val) (s : State) :
    (effect (.loadRegs x) s).reg r = s.reg r := by
  have hr : ¬ r.val < x.val + 1 := by omega
  exact (State.loadedRegs_get s s.i.toNat (x.val + 1) r).trans (if_neg hr)

/-- An effect leaves a register that is neither its destination nor its flag. -/
theorem effect_reg_of_not_written {i : Instr} {r : Reg} (hd : ¬ Destination i r)
    (hf : ¬ (r = vF ∧ WritesFlag i = true)) (s : State) : (effect i s).reg r = s.reg r := by
  cases i with
  | ldImm | addImm | ldReg | orReg | andReg | xorReg | ldVxDt => exact State.setReg_reg_of_ne s _ hd
  | rnd x kk => exact (State.setReg_reg_of_ne _ _ hd).trans (State.consumeRandom_reg s r)
  | addReg | subReg | shrReg | subnReg | shlReg =>
    exact State.setFlagThenReg_reg_of_ne s _ _ hd (fun h => hf ⟨h, rfl⟩)
  | drw x y n => exact State.setReg_reg_of_ne _ _ (fun h => hf ⟨h, rfl⟩)
  | loadRegs x => exact effect_loadRegs_reg_of_lt (Nat.not_le.1 hd) s
  | _ => rfl

/-- Settles O52: a register that is neither destination nor flag reads as before. -/
theorem registerWriters : Obligations.RegisterWriters := by
  intro i s t r h hf hne
  obtain ⟨-, rfl⟩ := exec_next_running h hf
  by_contra hn
  obtain ⟨hd, hflag⟩ := not_or.1 hn
  exact hne (effect_reg_of_not_written hd hflag s)

end Sys2Proof.Machine
end

section
/-! PROOFS. The state after reset (10_state.md R34): what its memory reads, and the invariants. -/

namespace Sys2Proof.Machine

open Sys2Proof.Safety

/-- An address that no entry names is not listed. -/
theorem Memory.find_eq_none {m : Memory} {a : Nat} (h : ∀ c ∈ m, c.1 ≠ a) : Memory.find m a = none := by
  induction m with
  | nil => rfl
  | cons c m ih =>
    obtain ⟨hc, hm⟩ := List.forall_mem_cons.1 h
    exact (if_neg hc).trans (ih hm)

/-- Well-formed parameters leave the glyph table in place at reset (20_memory.md R51). -/
theorem State.resetWith_byteAt_glyph {p : Params} (hp : ParamsWf p) {a : Nat} (ha : a < 80) :
    (State.resetWith p).byteAt a = p.glyphTable[a] := by
  obtain ⟨-, habove⟩ := hp
  have hfind : Memory.find p.initMem a = none := Memory.find_eq_none fun c hc => by
    have := habove c hc
    omega
  show (Memory.find p.initMem a).getD (unlistedByte p a) = _
  rw [hfind]
  exact dif_pos ha

/-- Above the glyph table memory reads INIT_MEM at reset, 0 where that lists nothing. -/
theorem State.resetWith_byteAt_above (p : Params) {a : Nat} (ha : 80 ≤ a) :
    (State.resetWith p).byteAt a = (Memory.find p.initMem a).getD 0 := by
  have hbase : unlistedByte p a = 0 := dif_neg (Nat.not_lt.2 ha)
  exact congrArg _ hbase

/-- Settles O12: the registers by definition, memory below and above 0x050 by its two lemmas. -/
theorem resetValues : Obligations.ResetValues := by
  intro p hp
  exact ⟨rfl, rfl, rfl, fun _ => rfl, rfl, rfl, rfl, rfl, fun _ h => State.resetWith_byteAt_glyph hp h,
    fun _ h => State.resetWith_byteAt_above p h⟩

/-- Well-formed parameters give a reset state with the memory invariant. -/
theorem State.resetWith_memoryInv {p : Params} (hp : ParamsWf p) : MemoryInv (State.resetWith p) := by
  obtain ⟨hwf, habove⟩ := hp
  exact ⟨hwf, habove, hwf, habove⟩

/-- After reset PC is 0x200 and no stack entry is live. -/
theorem State.resetWith_pcInv (p : Params) : PcInv (State.resetWith p) :=
  ⟨show (0x200 : Word).toNat ≤ 0x10FE by decide, fun k hk => absurd hk (Nat.not_lt_zero k.val)⟩

/-- The simulator's INIT_MEM lists nothing. -/
theorem paramsWf_simulatorParams : ParamsWf simulatorParams :=
  ⟨State.reset_mem_wf, fun c hc => absurd hc (List.not_mem_nil (a := c))⟩

/-- Settles O60, with `State.reset` as the reset state of the simulator's parameters. -/
theorem invariantsHoldAtReset : Obligations.InvariantsHoldAtReset :=
  ⟨fun p hp => ⟨State.resetWith_memoryInv hp, State.resetWith_pcInv p⟩,
    State.resetWith_memoryInv paramsWf_simulatorParams, State.resetWith_pcInv simulatorParams⟩

end Sys2Proof.Machine
end

section
/-! PROOFS. Memory (20_memory.md): which bytes an instruction writes, the invariant on memory, the glyph table, what a
fetch reads, and the faults of an access. -/

namespace Sys2Proof.Machine

open Sys2Proof.Safety

/-! ### Who writes memory -/

/-- No effect but those of LD B and LD [I] writes memory. -/
theorem effect_keeps_mem {i : Instr} (hb : ∀ x, i ≠ .ldB x) (hr : ∀ x, i ≠ .storeRegs x) (s : State) :
    (effect i s).mem = s.mem := by
  cases i with
  | ldB x => exact absurd rfl (hb x)
  | storeRegs x => exact absurd rfl (hr x)
  | _ => simp [effect]

@[simp] theorem effect_params (i : Instr) (s : State) : (effect i s).params = s.params := by
  cases i <;> simp [effect]

/-- What a byte reads as depends on memory and the parameters alone. -/
theorem State.byteAt_congr {s t : State} (hm : t.mem = s.mem) (hp : t.params = s.params) (a : Nat) :
    t.byteAt a = s.byteAt a := by
  simp only [State.byteAt, hm, hp]

/-- LD B leaves every byte outside the three from I (43_memory_ops.md R142). -/
theorem effect_ldB_byteAt_of_outside {x : Reg} {s : State} {a : Nat} (h : a < s.i.toNat ∨ s.i.toNat + 3 ≤ a) :
    (effect (.ldB x) s).byteAt a = s.byteAt a :=
  State.storeBytes_byteAt_of_outside s h

/-- LD [I], Vx leaves every byte outside the x + 1 from I (43_memory_ops.md R143). -/
theorem effect_storeRegs_byteAt_of_outside {x : Reg} {s : State} {a : Nat}
    (h : a < s.i.toNat ∨ s.i.toNat + (x.val + 1) ≤ a) : (effect (.storeRegs x) s).byteAt a = s.byteAt a :=
  State.storeBytes_byteAt_of_outside s (by rwa [State.regsThrough_length])

/-- Settles O51: outside the bytes LD B and LD [I] store, memory reads as before. -/
theorem memoryWriters : Obligations.MemoryWriters := by
  intro i s t a h hf hne
  obtain ⟨-, rfl⟩ := exec_next_running h hf
  cases i with
  | ldB x =>
    have hin : ¬ (a < s.i.toNat ∨ s.i.toNat + 3 ≤ a) := fun ho => hne (effect_ldB_byteAt_of_outside ho)
    exact .inl ⟨x, rfl, by omega⟩
  | storeRegs x =>
    have hin : ¬ (a < s.i.toNat ∨ s.i.toNat + (x.val + 1) ≤ a) :=
      fun ho => hne (effect_storeRegs_byteAt_of_outside ho)
    exact .inr ⟨x, rfl, by omega⟩
  | _ => exact absurd (State.byteAt_congr (effect_keeps_mem (by simp) (by simp) s) (effect_params _ s) a) hne

/-! ### The memory invariant -/

/-- The memory invariant reads memory and the parameters alone. -/
theorem memoryInv_of_same_memory {s t : State} (hi : MemoryInv s) (hm : t.mem = s.mem) (hp : t.params = s.params) :
    MemoryInv t := by
  unfold MemoryInv
  rwa [hm, hp]

/-- Bytes stored between the glyph table and the end of memory keep the memory invariant. -/
theorem State.storeBytes_keeps_memoryInv {s : State} {a : Nat} {bs : List Byte} (hi : MemoryInv s) (ha : 0x50 ≤ a)
    (hl : a + bs.length ≤ 0x1000) : MemoryInv (s.storeBytes a bs) := by
  obtain ⟨hwf, habove, hp⟩ := hi
  refine ⟨Memory.wf_writeBytes hwf hl, fun c hc => ?_, hp⟩
  rcases Memory.mem_writeBytes hc with hold | hnew
  · exact habove c hold
  · omega

/-- Under its guard an instruction stores nothing over the glyph table or beyond memory (20_memory.md R53). -/
theorem effect_keeps_memoryInv {i : Instr} {s : State} (hg : Guard i s) (hi : MemoryInv s) :
    MemoryInv (effect i s) := by
  cases i with
  | ldB x =>
    obtain ⟨ha, hl⟩ := hg
    have hstore : MemoryInv (s.storeBytes s.i.toNat (bcdDigits (s.reg x))) :=
      State.storeBytes_keeps_memoryInv hi ha hl
    exact memoryInv_of_same_memory hstore rfl rfl
  | storeRegs x =>
    obtain ⟨ha, hl⟩ := hg
    have hstore : MemoryInv (s.storeBytes s.i.toNat (s.regsThrough x)) :=
      State.storeBytes_keeps_memoryInv hi ha (by rwa [State.regsThrough_length])
    exact memoryInv_of_same_memory hstore rfl rfl
  | _ => exact memoryInv_of_same_memory hi (effect_keeps_mem (by simp) (by simp) s) (effect_params _ s)

/-- Halted, faulting or executing, a Cycle keeps the memory invariant. -/
theorem cycle_keeps_memoryInv {s t : State} (hi : MemoryInv s) (h : cycle s = .next t) : MemoryInv t := by
  rcases cycle_cases s with ⟨-, hc⟩ | ⟨-, f, w, -, hc⟩ | ⟨-, w, i, -, -, hc⟩
  · cases hc.symm.trans h
    exact hi
  · cases hc.symm.trans h
    exact hi
  · rcases exec_next_cases (hc.symm.trans h) with ⟨hg, rfl⟩ | ⟨f, -, rfl⟩
    · exact effect_keeps_memoryInv (s := { s with started := true }) hg hi
    · exact hi

/-- Reset makes memory that of the parameters, which are well-formed. -/
theorem resetBlock_keeps_memoryInv {s : State} (hi : MemoryInv s) : MemoryInv (resetBlock s) := by
  obtain ⟨-, -, hp⟩ := hi
  exact memoryInv_of_same_memory (State.resetWith_memoryInv hp) rfl rfl

/-- A ROM that LoadRom copies fits between 0x200 and the end of memory (70_reset_and_hazards.md R232). -/
theorem loadRom_keeps_memoryInv {bytes : List Byte} {s t : State} (hi : MemoryInv s)
    (h : loadRom bytes s = .next t) : MemoryInv t := by
  rcases loadRom_cases bytes s with ⟨-, hr⟩ | ⟨-, -, hr⟩ | ⟨-, hl, hr⟩
  · cases hr.symm.trans h
  · cases hr.symm.trans h
    exact hi
  · cases hr.symm.trans h
    exact State.storeBytes_keeps_memoryInv (s := { s with loadReport := none }) hi (by decide) (by omega)

/-- Settles O57, by cases on the transaction the step performs. -/
theorem stepKeepsMemoryInvariant : Obligations.StepKeepsMemoryInvariant := by
  intro s t hi h
  rcases step_cases s with ⟨rest, -, hs⟩ | ⟨rest, -, hs⟩ | ⟨rest, -, hs⟩ | ⟨bytes, rest, -, hs⟩ |
    ⟨keys, rest, -, hs⟩ <;> rw [hs] at h
  · exact cycle_keeps_memoryInv (s := { s with driver := rest }) hi h
  · cases h
    exact hi
  · cases h
    exact resetBlock_keeps_memoryInv (s := { s with driver := rest }) hi
  · exact loadRom_keeps_memoryInv (s := { s with driver := rest }) hi h
  · cases h
    exact hi

/-- Where nothing is listed over the glyph table it reads as GLYPH_TABLE (20_memory.md R51, R57). -/
theorem State.byteAt_glyph_of_memoryInv {s : State} (hi : MemoryInv s) {a : Nat} (ha : a < 80) :
    s.byteAt a = s.params.glyphTable[a] := by
  obtain ⟨-, habove, -⟩ := hi
  have hfind : Memory.find s.mem a = none := Memory.find_eq_none fun c hc => by
    have := habove c hc
    omega
  rw [State.byteAt, Memory.read, hfind]
  exact dif_pos ha

/-- Settles O58: the memory invariant holds before and after, for the same parameters. -/
theorem glyphTableIsImmutable : Obligations.GlyphTableIsImmutable := by
  intro s t hi h _ a ha
  have hs := State.byteAt_glyph_of_memoryInv hi ha
  have ht := State.byteAt_glyph_of_memoryInv (stepKeepsMemoryInvariant s t hi h) ha
  rw [parametersNeverChange s t h] at ht
  exact ⟨ht.trans hs.symm, ht⟩

/-! ### Fetch -/

/-- Settles O6, from what a fetch answers up to 0xFFE and above it. -/
theorem fetchIsTwoBytesBigEndian : Obligations.FetchIsTwoBytesBigEndian := by
  intro s
  refine ⟨fun h => ⟨_, State.fetch_ok h, toNat_wordOfBytes _ _⟩, fun h => ?_, fun h => ?_⟩
  · rw [State.fetch_error (by omega), h]
    rfl
  · rw [State.fetch_error (by omega), Nat.max_eq_left h]

/-- LD [I], Vx leaves V[k] at I + k, for every k up to x (43_memory_ops.md R143). -/
theorem effect_storeRegs_byteAt {x k : Reg} (hk : k.val ≤ x.val) (s : State) :
    (effect (.storeRegs x) s).byteAt (s.i.toNat + k.val) = s.reg k := by
  have hin : s.i.toNat ≤ s.i.toNat + k.val ∧ s.i.toNat + k.val < s.i.toNat + (s.regsThrough x).length := by
    rw [State.regsThrough_length]
    omega
  refine (State.storeBytes_byteAt s _ _ _).trans ((dif_pos hin).trans ?_)
  simp [State.regsThrough_get]

/-- Settles O35: the fetch at I reads the two bytes LD [I], Vx left at I and I + 1. -/
theorem fetchSeesStoredBytes : Obligations.FetchSeesStoredBytes := by
  intro x s hx hlo hhi
  have hg : Guard (.storeRegs x) s := ⟨hlo, by omega⟩
  have hfetch := State.fetch_ok (s := { effect (.storeRegs x) s with pc := s.i }) (by simp only; omega)
  refine ⟨_, exec_of_guard hg, _, hfetch, ?_⟩
  have hhigh := effect_storeRegs_byteAt (k := 0) (Nat.zero_le x.val) s
  have hlow := effect_storeRegs_byteAt (k := 1) hx s
  rw [toNat_wordOfBytes, ← hhigh, ← hlow]
  rfl

/-! ### The faults of an access -/

/-- Fault entry leaves every part of the state but the record (60_exceptions.md R203). -/
theorem State.raise_frame (s : State) (f : Fault) (w : Option Word) : Frame [.fault] s (s.raise f w) := by
  intro p hp
  cases p with
  | fault => exact absurd (List.mem_singleton.2 rfl) hp
  | regs | mem => exact fun _ => rfl
  | _ => rfl

/-- Settles O46: an effect records no fault, so what the instruction left is the fault entry. -/
theorem faultEntryWritesOnlyTheRecord : Obligations.FaultEntryWritesOnlyTheRecord := by
  intro i s t hrun h hf
  rcases exec_next_cases h with ⟨-, rfl⟩ | ⟨f, -, rfl⟩
  · exact absurd ((effect_fault i s).trans hrun) hf
  · exact State.raise_frame s f _

/-- DRW raises the fault of the check on its rows (45_sprite_draw.md R161). -/
theorem exec_drw_of_read_fault {x y : Reg} {n : Nat} {s : State} {f : Fault}
    (h : firstFault memReadFault s.i.toNat n = some f) :
    exec (.drw x y n) s = .next (s.raise f (some (encode (.drw x y n)))) := by
  simp only [exec, execDrw, h]
  rfl

/-- Settles O41, from the fault of a range of reads that leaves memory. -/
theorem drawOutOfBoundsFaults : Obligations.DrawOutOfBoundsFaults := by
  intro x y n s hn hout
  exact ⟨_, exec_drw_of_read_fault (firstFault_read_eq_some hn hout), rfl⟩

end Sys2Proof.Machine
end

section
/-! PROOFS. The decoder and the encoder undo each other (30_encoding.md R70 to R74): the fields of an encoded word, the
word made of the fields of a word, and the row of the opcode table a word matches. -/

namespace Sys2Proof

/-! ### The fields of an encoded word -/

@[simp] theorem fieldOp_encNNN {op : Nat} (h : op < 16) (nnn : BitVec 12) : fieldOp (encNNN op nnn) = op := by
  have := nnn.isLt
  rw [fieldOp_eq, toNat_encNNN h]
  omega

@[simp] theorem fieldNNN_encNNN {op : Nat} (h : op < 16) (nnn : BitVec 12) : fieldNNN (encNNN op nnn) = nnn := by
  have := nnn.isLt
  apply BitVec.eq_of_toNat_eq
  rw [toNat_fieldNNN, toNat_encNNN h]
  omega

@[simp] theorem fieldOp_encXKK {op : Nat} (h : op < 16) (x : Reg) {kk : Nat} (hk : kk < 256) :
    fieldOp (encXKK op x kk) = op := by
  have := x.isLt
  rw [fieldOp_eq, toNat_encXKK h x hk]
  omega

@[simp] theorem fieldX_encXKK {op : Nat} (h : op < 16) (x : Reg) {kk : Nat} (hk : kk < 256) :
    fieldX (encXKK op x kk) = x := by
  have := x.isLt
  apply Fin.ext
  rw [fieldX_val, toNat_encXKK h x hk]
  omega

@[simp] theorem bits_kk_encXKK {op : Nat} (h : op < 16) (x : Reg) {kk : Nat} (hk : kk < 256) :
    bits (encXKK op x kk) 0 8 = kk := by
  rw [bits_kk_eq, toNat_encXKK h x hk]
  omega

@[simp] theorem fieldKK_encXKK {op : Nat} (h : op < 16) (x : Reg) (kk : Byte) :
    fieldKK (encXKK op x kk.toNat) = kk := by
  rw [fieldKK, bits_kk_encXKK h x kk.isLt, BitVec.ofNat_toNat, BitVec.setWidth_eq]

@[simp] theorem fieldOp_encXYN {op : Nat} (h : op < 16) (x y : Reg) (n : Nat) : fieldOp (encXYN op x y n) = op := by
  have := x.isLt; have := y.isLt
  rw [fieldOp_eq, toNat_encXYN h]
  omega

@[simp] theorem fieldX_encXYN {op : Nat} (h : op < 16) (x y : Reg) (n : Nat) : fieldX (encXYN op x y n) = x := by
  have := x.isLt; have := y.isLt
  apply Fin.ext
  rw [fieldX_val, toNat_encXYN h]
  omega

@[simp] theorem fieldY_encXYN {op : Nat} (h : op < 16) (x y : Reg) (n : Nat) : fieldY (encXYN op x y n) = y := by
  have := x.isLt; have := y.isLt
  apply Fin.ext
  rw [fieldY_val, toNat_encXYN h]
  omega

@[simp] theorem fieldN_encXYN {op : Nat} (h : op < 16) (x y : Reg) (n : Nat) :
    fieldN (encXYN op x y n) = n % 16 := by
  rw [fieldN_eq, toNat_encXYN h]
  omega

/-! ### Decoding undoes encoding -/

/-- The word of a well-formed instruction decodes to it, one format of 30_encoding.md R73 at a time. -/
theorem decodeWord_encode {i : Instr} (hwf : i.wf = true) : decodeWord (encode i) = .ok i := by
  cases i with
  | cls | ret => rfl
  | jp nnn | call nnn | jpV0 nnn | ldI nnn => simp [encode, decodeWord]
  | seImm x kk | sneImm x kk | ldImm x kk | addImm x kk | rnd x kk =>
    simp [encode, decodeWord, kk.isLt]
  | seReg x y | sneReg x y => simp [encode, decodeWord]
  | ldReg x y | orReg x y | andReg x y | xorReg x y | addReg x y | subReg x y | shrReg x y | subnReg x y
  | shlReg x y => simp [encode, decodeWord, decode8]
  | drw x y n =>
    have hn : n ≤ 15 := of_decide_eq_true hwf
    simp [encode, decodeWord]
    omega
  | skp x | sknp x => simp [encode, decodeWord, decodeE]
  | addI x | ldB x | storeRegs x | loadRegs x | ldVxDt x | ldDtVx x | ldStVx x | ldF x =>
    simp [encode, decodeWord, decodeF]

/-- What a word decodes to, its two bytes decode to, and the bytes that follow are left (30_encoding.md R70). -/
theorem decode_bytesOfWord_of_ok {w : Word} {i : Instr} (h : decodeWord w = .ok i) (rest : List Byte) :
    decode (bytesOfWord w ++ rest) = .ok (i, rest) := by
  rw [decode_bytesOfWord, h]

/-- Settles O1: the word by the fields of each format, the bytes because they make the word again. -/
theorem decodeUndoesEncode : Obligations.DecodeUndoesEncode := by
  intro i hwf
  have hw := decodeWord_encode hwf
  exact ⟨hw, decode_bytesOfWord_of_ok hw⟩

/-! ### Encoding undoes decoding -/

theorem encNNN_of_fields {w : Word} {op : Nat} (h : fieldOp w = op) : encNNN op (fieldNNN w) = w := by
  have := w.isLt
  rw [fieldOp_eq] at h
  apply BitVec.eq_of_toNat_eq
  rw [toNat_encNNN (by omega), toNat_fieldNNN]
  omega

theorem encXKK_of_fields {w : Word} {op kk : Nat} (h : fieldOp w = op ∧ bits w 0 8 = kk) :
    encXKK op (fieldX w) kk = w := by
  have := w.isLt
  rw [fieldOp_eq, bits_kk_eq] at h
  apply BitVec.eq_of_toNat_eq
  rw [toNat_encXKK (by omega) _ (by omega), fieldX_val]
  omega

theorem encXYN_of_fields {w : Word} {op n : Nat} (h : fieldOp w = op ∧ fieldN w = n) :
    encXYN op (fieldX w) (fieldY w) n = w := by
  have := w.isLt
  rw [fieldOp_eq, fieldN_eq] at h
  apply BitVec.eq_of_toNat_eq
  rw [toNat_encXYN (by omega), fieldX_val, fieldY_val]
  omega

/-- The low byte as the number the decoder tests and as the operand kk. -/
theorem bits_kk_eq_toNat_fieldKK (w : Word) : bits w 0 8 = (fieldKK w).toNat := by
  rw [bits_kk_eq, toNat_fieldKK]

theorem fieldN_le (w : Word) : fieldN w ≤ 15 := by
  rw [fieldN_eq]
  omega

/-- What a word of op 8 decodes to encodes to it. -/
theorem encode_of_decode8 {w : Word} {i : Instr} (hop : fieldOp w = 0x8) (h : decode8 w = .ok i) :
    encode i = w ∧ i.wf = true := by
  unfold decode8 at h
  split at h <;> cases h <;> exact ⟨encXYN_of_fields ⟨hop, ‹_›⟩, rfl⟩

/-- What a word of op E decodes to encodes to it. -/
theorem encode_of_decodeE {w : Word} {i : Instr} (hop : fieldOp w = 0xE) (h : decodeE w = .ok i) :
    encode i = w ∧ i.wf = true := by
  unfold decodeE at h
  split at h <;> cases h <;> exact ⟨encXKK_of_fields ⟨hop, ‹_›⟩, rfl⟩

/-- What a word of op F decodes to encodes to it. -/
theorem encode_of_decodeF {w : Word} {i : Instr} (hop : fieldOp w = 0xF) (h : decodeF w = .ok i) :
    encode i = w ∧ i.wf = true := by
  unfold decodeF at h
  split at h <;> cases h <;> exact ⟨encXKK_of_fields ⟨hop, ‹_›⟩, rfl⟩

/-- Settles O2, by cases on op: the fields the decoder reads and the ones it tests are all of the word. -/
theorem encodeUndoesDecode : Obligations.EncodeUndoesDecode := by
  intro w i h
  unfold decodeWord at h
  split at h
  case h_1 =>
    split at h
    · next hw => cases h; exact ⟨hw.symm, rfl⟩
    · split at h
      · next hw => cases h; exact ⟨hw.symm, rfl⟩
      · cases h
  case h_6 hop | h_10 hop =>
    split at h
    · next hn => cases h; exact ⟨encXYN_of_fields ⟨hop, hn⟩, rfl⟩
    · cases h
  case h_2 hop | h_3 hop | h_11 hop | h_12 hop => cases h; exact ⟨encNNN_of_fields hop, rfl⟩
  case h_4 hop | h_5 hop | h_7 hop | h_8 hop | h_13 hop =>
    cases h
    exact ⟨encXKK_of_fields ⟨hop, bits_kk_eq_toNat_fieldKK w⟩, rfl⟩
  case h_14 hop => cases h; exact ⟨encXYN_of_fields ⟨hop, rfl⟩, decide_eq_true (fieldN_le w)⟩
  case h_9 hop => exact encode_of_decode8 hop h
  case h_15 hop => exact encode_of_decodeE hop h
  case h_16 hop => exact encode_of_decodeF hop h
  case h_17 => cases h

/-! ### Words and the rows of the opcode table -/

/-- A row that fixes op alone. -/
theorem fieldOp_of_and_F000 {w m : Word} {op : Nat} (hm : m.toNat = op * 4096) (h : w &&& 0xF000#16 = m) :
    fieldOp w = op := by
  rw [← BitVec.toNat_inj, mask_F000] at h
  rw [fieldOp_eq]
  omega

/-- A row that fixes op and n. -/
theorem fields_of_and_F00F {w m : Word} {op n : Nat} (hm : m.toNat = op * 4096 + n) (hn : n < 16)
    (h : w &&& 0xF00F#16 = m) : fieldOp w = op ∧ fieldN w = n := by
  rw [← BitVec.toNat_inj, mask_F00F] at h
  rw [fieldOp_eq, fieldN_eq]
  omega

/-- A row that fixes op and kk. -/
theorem fields_of_and_F0FF {w m : Word} {op kk : Nat} (hm : m.toNat = op * 4096 + kk) (hk : kk < 256)
    (h : w &&& 0xF0FF#16 = m) : fieldOp w = op ∧ bits w 0 8 = kk := by
  rw [← BitVec.toNat_inj, mask_F0FF] at h
  rw [fieldOp_eq, bits_kk_eq]
  omega

/-- `w` matches the row of `i` in the opcode table (30_encoding.md R74). -/
def MatchesRow (w : Word) (i : Instr) : Prop := w &&& (tableRow i).1 = (tableRow i).2

/-- The instruction of the row of `i` whose operands are the fields of `w` (30_encoding.md R71). -/
def Instr.withFieldsOf (i : Instr) (w : Word) : Instr :=
  match i with
  | .cls => .cls
  | .ret => .ret
  | .jp _ => .jp (fieldNNN w)
  | .call _ => .call (fieldNNN w)
  | .jpV0 _ => .jpV0 (fieldNNN w)
  | .seImm _ _ => .seImm (fieldX w) (fieldKK w)
  | .sneImm _ _ => .sneImm (fieldX w) (fieldKK w)
  | .seReg _ _ => .seReg (fieldX w) (fieldY w)
  | .sneReg _ _ => .sneReg (fieldX w) (fieldY w)
  | .ldImm _ _ => .ldImm (fieldX w) (fieldKK w)
  | .addImm _ _ => .addImm (fieldX w) (fieldKK w)
  | .ldReg _ _ => .ldReg (fieldX w) (fieldY w)
  | .orReg _ _ => .orReg (fieldX w) (fieldY w)
  | .andReg _ _ => .andReg (fieldX w) (fieldY w)
  | .xorReg _ _ => .xorReg (fieldX w) (fieldY w)
  | .addReg _ _ => .addReg (fieldX w) (fieldY w)
  | .subReg _ _ => .subReg (fieldX w) (fieldY w)
  | .shrReg _ _ => .shrReg (fieldX w) (fieldY w)
  | .subnReg _ _ => .subnReg (fieldX w) (fieldY w)
  | .shlReg _ _ => .shlReg (fieldX w) (fieldY w)
  | .ldI _ => .ldI (fieldNNN w)
  | .addI _ => .addI (fieldX w)
  | .ldB _ => .ldB (fieldX w)
  | .storeRegs _ => .storeRegs (fieldX w)
  | .loadRegs _ => .loadRegs (fieldX w)
  | .rnd _ _ => .rnd (fieldX w) (fieldKK w)
  | .drw _ _ _ => .drw (fieldX w) (fieldY w) (fieldN w)
  | .skp _ => .skp (fieldX w)
  | .sknp _ => .sknp (fieldX w)
  | .ldVxDt _ => .ldVxDt (fieldX w)
  | .ldDtVx _ => .ldDtVx (fieldX w)
  | .ldStVx _ => .ldStVx (fieldX w)
  | .ldF _ => .ldF (fieldX w)

/-- The fields of a word stay in the row. -/
theorem tableRow_withFieldsOf (i : Instr) (w : Word) : tableRow (i.withFieldsOf w) = tableRow i := by
  cases i <;> rfl

/-- The fields of a word can be encoded: n is below 16. -/
theorem wf_withFieldsOf (i : Instr) (w : Word) : (i.withFieldsOf w).wf = true := by
  cases i with
  | drw x y n => exact decide_eq_true (fieldN_le w)
  | _ => rfl

/-- A word that matches a row is the word of that row with its own fields: mask and fields together cover every bit. -/
theorem encode_withFieldsOf {w : Word} {i : Instr} (h : MatchesRow w i) : encode (i.withFieldsOf w) = w := by
  cases i with
  | cls | ret => exact h.symm.trans (mask_FFFF w)
  | jp | call | jpV0 | ldI => exact encNNN_of_fields (fieldOp_of_and_F000 rfl h)
  | seImm | sneImm | ldImm | addImm | rnd =>
    exact encXKK_of_fields ⟨fieldOp_of_and_F000 rfl h, bits_kk_eq_toNat_fieldKK w⟩
  | drw => exact encXYN_of_fields ⟨fieldOp_of_and_F000 rfl h, rfl⟩
  | seReg | sneReg | ldReg | orReg | andReg | xorReg | addReg | subReg | shrReg | subnReg | shlReg =>
    exact encXYN_of_fields (fields_of_and_F00F rfl (by decide) h)
  | addI | ldB | storeRegs | loadRegs | skp | sknp | ldVxDt | ldDtVx | ldStVx | ldF =>
    exact encXKK_of_fields (fields_of_and_F0FF rfl (by decide) h)

/-- The word of every instruction matches its row. -/
theorem encode_matchesRow (i : Instr) : MatchesRow (encode i) i := by
  cases i with
  | cls | ret => exact mask_FFFF _
  | jp nnn | call nnn | jpV0 nnn | ldI nnn => exact Laws.EncodingRow.nnn_row (by decide) nnn _ rfl
  | seImm x kk | sneImm x kk | ldImm x kk | addImm x kk | rnd x kk =>
    exact Laws.EncodingRow.xkk_row (by decide) x kk _ rfl
  | drw x y n => exact Laws.EncodingRow.drw x y n
  | seReg x y | sneReg x y | ldReg x y | orReg x y | andReg x y | xorReg x y | addReg x y | subReg x y | shrReg x y
  | subnReg x y | shlReg x y => exact Laws.EncodingRow.xyn_row (by decide) x y (by decide) _ rfl
  | addI x | ldB x | storeRegs x | loadRegs x | skp x | sknp x | ldVxDt x | ldDtVx x | ldStVx x | ldF x =>
    exact Laws.EncodingRow.xfn_row (by decide) x (by decide) _ rfl

/-- A word that matches a row decodes to the instruction of that row with the word's fields. -/
theorem decodeWord_of_matchesRow {w : Word} {i : Instr} (h : MatchesRow w i) :
    decodeWord w = .ok (i.withFieldsOf w) := by
  have hd := decodeWord_encode (wf_withFieldsOf i w)
  rwa [encode_withFieldsOf h] at hd

/-- Settles O3: a decoded word is the encoding of its instruction and so lies in that row, and a word that matches a row
decodes to its own fields in that row. -/
theorem wordSelectsItsTableRow : Obligations.WordSelectsItsTableRow := by
  intro w i
  constructor
  · rintro ⟨j, hj, hrow⟩
    obtain ⟨rfl, -⟩ := encodeUndoesDecode w j hj
    rw [← hrow]
    exact encode_matchesRow j
  · exact fun h => ⟨i.withFieldsOf w, decodeWord_of_matchesRow h, tableRow_withFieldsOf i w⟩

/-! ### Illegal words -/

/-- A check before an instruction refuses where it fails and where what follows refuses. -/
theorem exists_error_ite (c : Prop) [Decidable c] (i : Instr) (r : Except DecodeError Instr) :
    (∃ e, (if c then .ok i else r) = .error e) ↔ ¬ c ∧ ∃ e, r = .error e := by
  split <;> simp [*]

/-- The illegal words of op 8 (30_encoding.md R75). -/
theorem decode8_error_iff (w : Word) :
    (∃ e, decode8 w = .error e) ↔ fieldN w ∈ [0x8, 0x9, 0xA, 0xB, 0xC, 0xD, 0xF] := by
  have hn := fieldN_le w
  unfold decode8
  split
  case h_10 =>
    simp only [imp_false, Except.error.injEq, exists_eq', true_iff, List.mem_cons, List.not_mem_nil, or_false] at *
    omega
  all_goals simp [*]

/-- The illegal words of op E (30_encoding.md R75). -/
theorem decodeE_error_iff (w : Word) : (∃ e, decodeE w = .error e) ↔ bits w 0 8 ∉ [0x9E, 0xA1] := by
  unfold decodeE
  split <;> simp_all

/-- The illegal words of op F (30_encoding.md R75). -/
theorem decodeF_error_iff (w : Word) :
    (∃ e, decodeF w = .error e) ↔ bits w 0 8 ∉ [0x07, 0x15, 0x18, 0x1E, 0x29, 0x33, 0x55, 0x65] := by
  unfold decodeF
  split <;> simp_all

/-- The six ranges of 30_encoding.md R75, by op. -/
theorem decodeWord_error_iff (w : Word) :
    (∃ e, decodeWord w = .error e) ↔
      (fieldOp w = 0x0 ∧ w ≠ 0x00E0 ∧ w ≠ 0x00EE) ∨
      (fieldOp w = 0x5 ∧ fieldN w ≠ 0) ∨
      (fieldOp w = 0x8 ∧ fieldN w ∈ [0x8, 0x9, 0xA, 0xB, 0xC, 0xD, 0xF]) ∨
      (fieldOp w = 0x9 ∧ fieldN w ≠ 0) ∨
      (fieldOp w = 0xE ∧ bits w 0 8 ∉ [0x9E, 0xA1]) ∨
      (fieldOp w = 0xF ∧ bits w 0 8 ∉ [0x07, 0x15, 0x18, 0x1E, 0x29, 0x33, 0x55, 0x65]) := by
  have hop : fieldOp w < 16 := by
    have := w.isLt
    rw [fieldOp_eq]
    omega
  rw [← decode8_error_iff, ← decodeE_error_iff, ← decodeF_error_iff]
  unfold decodeWord
  split
  case h_17 =>
    simp only [imp_false] at *
    omega
  all_goals simp [*, exists_error_ite]

/-- Settles O5, by running the decoder. -/
theorem sampleWordsDecode : Obligations.SampleWordsDecode :=
  ⟨rfl, rfl, rfl, rfl, rfl, rfl, rfl, rfl, rfl, rfl, rfl, rfl, rfl, rfl, rfl, rfl, rfl⟩

end Sys2Proof
end

section
/-! PROOFS. The Cycle (30_encoding.md R77, R78): fetch, decode and execute, the fault of each, and PC after an
instruction. -/

namespace Sys2Proof.Machine

open Sys2Proof.Safety

/-! ### Fetch, decode, execute -/

/-- A fetch fault ends the next Cycle of a running block, with no opcode recorded. -/
theorem step_of_fetch_error {s : State} {rest : List Transaction} {f : Fault} (hc : CycleNext s rest)
    (h : s.fault = none) (hf : s.fetch = .error f) :
    step s = .next ({ s with started := true, driver := rest }.raise f none) :=
  (step_of_cycleNext hc).trans (cycle_of_fetch_error (s := { s with driver := rest }) h hf)

/-- A word that is no instruction ends the next Cycle of a running block, with the word recorded. -/
theorem step_of_unknown {s : State} {rest : List Transaction} {w : Word} {e : DecodeError} (hc : CycleNext s rest)
    (h : s.fault = none) (hf : s.fetch = .ok w) (hd : decodeWord w = .error e) :
    step s = .next ({ s with started := true, driver := rest }.raise .unknownOpcode (some w)) :=
  (step_of_cycleNext hc).trans (cycle_of_unknown (s := { s with driver := rest }) h hf hd)

/-- The next Cycle of a running block executes the instruction its word decodes to. -/
theorem step_of_decoded {s : State} {rest : List Transaction} {w : Word} {i : Instr} (hc : CycleNext s rest)
    (h : s.fault = none) (hf : s.fetch = .ok w) (hd : decodeWord w = .ok i) :
    step s = exec i { s with started := true, driver := rest } :=
  (step_of_cycleNext hc).trans (cycle_of_decoded (s := { s with driver := rest }) h hf hd)

/-- Settles O7, from what the step is in each of the three cases. -/
theorem cycleFetchesDecodesExecutes : Obligations.CycleFetchesDecodesExecutes := by
  intro s rest hc h
  exact ⟨fun f hf => ⟨_, step_of_fetch_error hc h hf, rfl⟩,
    fun w e hf hd => ⟨_, step_of_unknown hc h hf hd, rfl⟩,
    fun w i hf hd => step_of_decoded hc h hf hd⟩

/-- Settles O4: R75's ranges are those of the decoder, and such a word ends a Cycle. -/
theorem illegalWordsRaiseUnknownOpcode : Obligations.IllegalWordsRaiseUnknownOpcode := by
  refine ⟨fun w => ?_, fun s rest w e hc h hf hd => ⟨_, step_of_unknown hc h hf hd, rfl⟩⟩
  rw [decodeWord_error_iff, fieldOp_eq, fieldN_eq, bits_kk_eq]

/-- Two bytes that decode to an instruction make a word that does. -/
theorem decodeWord_of_decode {hi lo : Byte} {rest tail : List Byte} {i : Instr}
    (h : decode (hi :: lo :: rest) = .ok (i, tail)) : decodeWord (wordOfBytes hi lo) = .ok i := by
  simp only [decode] at h
  split at h
  · next hw => cases h; exact hw
  · cases h

/-- Settles O8: the fetch reads the two bytes, whose word decodes to the instruction. -/
theorem stepRunsTheDecodedInstruction : Obligations.StepRunsTheDecodedInstruction := by
  intro s i h hpc hd
  have hf := State.fetch_ok hpc
  have hi := decodeWord_of_decode hd
  refine ⟨fun hq => ?_, fun rest hq => step_of_decoded (.inr hq) h hf hi⟩
  rw [step_of_decoded (.inl ⟨hq, rfl⟩) h hf hi, ← hq]

/-! ### PC after an instruction -/

/-- From where a fetch succeeds, `skip` and `next` add 4 and 2 exactly (30_encoding.md R78). -/
theorem toNat_pc_add_skip {pc : Word} (h : pc.toNat ≤ 0xFFE) (c : Bool) :
    (pc + if c then 4 else 2).toNat = pc.toNat + if c then 4 else 2 := by
  cases c
  · exact toNat_pc_add_two h
  · exact toNat_pc_add_four h

/-- Settles O47: PC in the effect of the instruction, by its outcome. -/
theorem pcAfterEachOutcome : Obligations.PcAfterEachOutcome := by
  intro i s t hpc h hf
  obtain ⟨hg, rfl⟩ := exec_next_running h hf
  cases i with
  | jp nnn | call nnn => exact toNat_zextAddr nnn
  | jpV0 nnn =>
    have hn := nnn.isLt
    have hv := (s.reg 0).isLt
    exact (toNat_u16 _).trans (Nat.mod_eq_of_lt (by omega))
  | ret =>
    have hsp : s.sp.val ≠ 0 := hg
    exact ⟨⟨s.sp.val - 1, by omega⟩, by simp only; omega, rfl⟩
  | seImm x kk | seReg x y | sneImm x kk | sneReg x y =>
    exact (toNat_pc_add_skip hpc _).trans (by simp)
  | skp x | sknp x =>
    have hx : (s.reg x).toNat < 16 := hg
    refine (toNat_pc_add_skip hpc _).trans ?_
    simp [Vector.getElem?_eq_getElem hx]
  | _ => exact toNat_pc_add_two hpc

end Sys2Proof.Machine
end

section
/-! PROOFS. Control (40_control.md R100 to R104): CLS, RET, JP, CALL, JP V0. Before them, the frame of every
update of the state and of every instruction's effect, and the fault an instruction raises outside its guard. -/

namespace Sys2Proof.Safety

open Sys2Proof.Machine

/-- A part that two changes leave, each within its frame, is left by both together. -/
theorem Frame.trans {a b : List Part} {s t u : State} (h : Frame a s t) (h' : Frame b t u) : Frame (a ++ b) s u := by
  intro p hp
  obtain ⟨ha, hb⟩ := not_or.1 (mt List.mem_append.2 hp)
  have hst := h p ha
  have htu := h' p hb
  cases p with
  | regs | mem => exact fun r => (htu r).trans (hst r)
  | _ => exact htu.trans hst

end Sys2Proof.Safety

namespace Sys2Proof.Machine

open Sys2Proof.Safety

/-! ### What an update leaves unchanged -/

theorem State.setPc_frame (s : State) {w : Word} : Frame [.pc] s (s.setPc w) := by
  rintro ⟨⟩ <;> simp [Same]

theorem State.setReg_frame (s : State) {r : Reg} {b : Byte} : Frame [.regs] s (s.setReg r b) := by
  rintro ⟨⟩ <;> simp [Same]

theorem State.setI_frame (s : State) {w : Word} : Frame [.i] s (s.setI w) := by
  rintro ⟨⟩ <;> simp [Same]

theorem State.setDt_frame (s : State) {b : Byte} : Frame [.dt] s (s.setDt b) := by
  rintro ⟨⟩ <;> simp [Same]

theorem State.setSt_frame (s : State) {b : Byte} : Frame [.st] s (s.setSt b) := by
  rintro ⟨⟩ <;> simp [Same]

theorem State.setFb_frame (s : State) {fb : Framebuffer} : Frame [.fb] s (s.setFb fb) := by
  rintro ⟨⟩ <;> simp [Same]

theorem State.emitRepaint_frame (s : State) : Frame [.repaints] s s.emitRepaint := by
  rintro ⟨⟩ <;> simp [Same]

theorem State.storeBytes_frame (s : State) {a : Nat} {bs : List Byte} : Frame [.mem] s (s.storeBytes a bs) := by
  rintro ⟨⟩ <;> simp [Same]

theorem State.consumeRandom_frame (s : State) : Frame [.rand, .draws] s s.consumeRandom := by
  rintro ⟨⟩ <;> simp [Same]

theorem State.setFlagThenReg_frame (s : State) {f : Byte} {d : Reg} {b : Byte} :
    Frame [.regs] s (s.setFlagThenReg f d b) := by
  rintro ⟨⟩ <;> simp [Same]

/-! ### What an effect leaves unchanged -/

/-- The parts of the state the effect of `i` may write. -/
def writtenParts (i : Instr) : List Part :=
  match i with
  | .cls => [.fb, .repaints, .pc]
  | .ret => [.pc, .sp]
  | .call _ => [.pc, .sp, .stack]
  | .jp _ | .jpV0 _ | .seImm _ _ | .sneImm _ _ | .seReg _ _ | .sneReg _ _ | .skp _ | .sknp _ => [.pc]
  | .ldImm _ _ | .addImm _ _ | .ldReg _ _ | .orReg _ _ | .andReg _ _ | .xorReg _ _ | .addReg _ _ | .subReg _ _
  | .shrReg _ _ | .subnReg _ _ | .shlReg _ _ | .ldVxDt _ => [.regs, .pc]
  | .ldI _ | .addI _ | .ldF _ => [.i, .pc]
  | .ldB _ => [.mem, .pc]
  | .storeRegs _ => [.mem, .i, .pc]
  | .loadRegs _ => [.regs, .i, .pc]
  | .rnd _ _ => [.rand, .draws, .regs, .pc]
  | .drw _ _ _ => [.fb, .regs, .repaints, .pc]
  | .ldDtVx _ => [.dt, .pc]
  | .ldStVx _ => [.st, .pc]

/-- An effect leaves every part it does not write: each is made of updates whose frames add up, but for RET, CALL and
LD Vx,[I], which set fields of the record. -/
theorem effect_frame (i : Instr) (s : State) : Frame (writtenParts i) s (effect i s) := by
  cases i with
  | ret | call | loadRegs => rintro ⟨⟩ <;> simp [Same, effect, writtenParts, State.reg, State.byteAt]
  | jp | jpV0 | seImm | sneImm | seReg | sneReg | skp | sknp => exact State.setPc_frame _
  | ldImm | addImm | ldReg | orReg | andReg | xorReg | ldVxDt =>
    exact (State.setReg_frame _).trans (State.setPc_frame _)
  | addReg | subReg | shrReg | subnReg | shlReg => exact (State.setFlagThenReg_frame _).trans (State.setPc_frame _)
  | ldI | addI | ldF => exact (State.setI_frame _).trans (State.setPc_frame _)
  | ldDtVx => exact (State.setDt_frame _).trans (State.setPc_frame _)
  | ldStVx => exact (State.setSt_frame _).trans (State.setPc_frame _)
  | ldB => exact (State.storeBytes_frame _).trans (State.setPc_frame _)
  | storeRegs =>
    exact ((State.storeBytes_frame _).trans (State.setI_frame _)).trans (State.setPc_frame _)
  | rnd => exact ((State.consumeRandom_frame _).trans (State.setReg_frame _)).trans (State.setPc_frame _)
  | cls => exact ((State.setFb_frame _).trans (State.emitRepaint_frame _)).trans (State.setPc_frame _)
  | drw =>
    exact (((State.setFb_frame _).trans (State.setReg_frame _)).trans (State.emitRepaint_frame _)).trans
      (State.setPc_frame _)

/-! ### The fault outside the guard -/

/-- Outside its guard, an instruction that is no aliasing form and has one fault kind raises that fault
(60_exceptions.md R201). -/
theorem raises_of_not_guard {i : Instr} {s : State} {f : Fault} (hg : ¬ Guard i s) (ha : ¬ AliasForm i)
    (hf : ∀ g, MayRaise i g → g = f) : Raises i s f := by
  rcases exec_of_not_guard hg with ⟨g, hm, he⟩ | ⟨halias, -, -⟩
  · exact ⟨_, he, by rw [State.raise_fault, hf g hm]⟩
  · exact absurd halias ha

/-! ### CLS, RET, CALL and the jumps -/

/-- Settles O16: the cleared framebuffer has no pixel set, and CLS writes the parts of its frame alone. -/
theorem clsClearsTheScreen : Obligations.ClsClearsTheScreen := by
  intro s
  exact ⟨_, exec_of_guard (i := .cls) trivial, pixel_clearFb, rfl, rfl, effect_frame .cls s⟩

/-- Settles O17: under its guard RET pops, and an empty stack is outside the guard. -/
theorem retPopsThePc : Obligations.RetPopsThePc := by
  intro s
  constructor
  · intro k hk
    have hg : Guard .ret s := show s.sp.val ≠ 0 by omega
    have htop : s.sp.val - 1 = k.val := by omega
    exact ⟨_, exec_of_guard hg, by simp [effect, htop], htop, effect_frame .ret s⟩
  · intro hsp
    exact raises_of_not_guard (fun hg => hg (congrArg Fin.val hsp)) not_false (fun _ h => h)

/-- The entry CALL writes is the first dead one, and it holds the address behind the CALL (40_control.md R103). -/
theorem effect_call_stack (nnn : BitVec 12) (s : State) (j : Fin 16) :
    (effect (.call nnn) s).stack[j] = if s.sp.val = j.val then s.pc + 2 else s.stack[j] :=
  Vector.getElem_setIfInBounds j.isLt

/-- Settles O18: under its guard CALL pushes, and a full stack is outside the guard. -/
theorem callPushesTheReturnAddress : Obligations.CallPushesTheReturnAddress := by
  intro nnn s
  constructor
  · intro k hk
    have hg : Guard (.call nnn) s := show s.sp.val < 16 by omega
    refine ⟨_, exec_of_guard hg, ?_, fun j hj => ?_, ?_, toNat_zextAddr nnn, effect_frame (.call nnn) s⟩
    · rw [effect_call_stack, if_pos hk]
    · rw [effect_call_stack, if_neg (fun h => hj (Fin.ext (h.symm.trans hk)))]
    · show min (s.sp.val + 1) 16 = k.val + 1
      omega
  · intro hsp
    have hfull : s.sp.val = 16 := congrArg Fin.val hsp
    exact raises_of_not_guard (fun hg => absurd hfull (Nat.ne_of_lt hg)) not_false (fun _ h => h)

/-- Settles O19: the target of JP fits 12 bits, that of JP V0 at most 0xFF + 0xFFF, so that 16 bits hold it. -/
theorem jumpsGoToTheirAddress : Obligations.JumpsGoToTheirAddress := by
  intro nnn s
  have hn := nnn.isLt
  have hv := (s.reg 0).isLt
  have hsum : (u16 ((s.reg 0).toNat + nnn.toNat)).toNat = (s.reg 0).toNat + nnn.toNat := by
    rw [toNat_u16]
    omega
  exact ⟨⟨_, exec_of_guard (i := .jp nnn) trivial, toNat_zextAddr nnn, effect_frame (.jp nnn) s⟩,
    ⟨_, exec_of_guard (i := .jpV0 nnn) trivial, hsum, effect_frame (.jpV0 nnn) s⟩⟩

/-- Settles O20: RET pops the entry CALL pushed, the one entry CALL wrote, and SP falls back to where it was. -/
theorem retUndoesCall : Obligations.RetUndoesCall := by
  intro nnn s hsp
  obtain ⟨t, hcall, hpushed, hlive, hspt, -, hst⟩ := (callPushesTheReturnAddress nnn s).1 ⟨s.sp.val, hsp⟩ rfl
  obtain ⟨u, hret, hpc, hspu, htu⟩ := (retPopsThePc t).1 ⟨s.sp.val, hsp⟩ hspt
  have hstack : u.stack = t.stack := htu .stack (by decide)
  have hback : u.sp = s.sp := Fin.ext hspu
  refine ⟨t, u, hcall, hret, hpc.trans hpushed, hback, fun k hk => ?_, fun p hp => ?_⟩
  · rw [hstack]
    exact hlive k (fun h => absurd (congrArg Fin.val h) (Nat.ne_of_lt hk))
  · by_cases hpsp : p = .sp
    · subst hpsp
      exact hback
    · exact hst.trans htu p (by simp_all)

end Sys2Proof.Machine
end

section
/-! PROOFS. Conditional skip (41_conditional_skip.md R110 to R113): SE and SNE, which always run and write PC alone. -/

namespace Sys2Proof.Machine

open Sys2Proof.Safety

/-- SE advances PC by 4 on equal bytes (41_conditional_skip.md R110, R112). -/
theorem pc_add_skip_of_beq (pc : Word) (a b : Byte) :
    (pc + if a == b then 4 else 2) = pc + if a = b then 4 else 2 := by
  simp only [beq_iff_eq]

/-- SNE advances PC by 2 on equal bytes (41_conditional_skip.md R111, R113). -/
theorem pc_add_skip_of_bne (pc : Word) (a b : Byte) :
    (pc + if a != b then 4 else 2) = pc + if a = b then 2 else 4 := by
  simp only [bne_iff_ne, ne_eq, ite_not]

/-- Settles O21: both forms have no guard, and their effect sets PC by the comparison of Vx with kk. -/
theorem skipsOnImmediate : Obligations.SkipsOnImmediate := by
  intro x kk s
  constructor
  · exact ⟨_, exec_of_guard (i := .seImm x kk) trivial, pc_add_skip_of_beq .., effect_frame (.seImm x kk) s⟩
  · exact ⟨_, exec_of_guard (i := .sneImm x kk) trivial, pc_add_skip_of_bne .., effect_frame (.sneImm x kk) s⟩

/-- Settles O22: both forms have no guard, and their effect sets PC by the comparison of Vx with Vy. -/
theorem skipsOnRegisters : Obligations.SkipsOnRegisters := by
  intro x y s
  constructor
  · exact ⟨_, exec_of_guard (i := .seReg x y) trivial, pc_add_skip_of_beq .., effect_frame (.seReg x y) s⟩
  · exact ⟨_, exec_of_guard (i := .sneReg x y) trivial, pc_add_skip_of_bne .., effect_frame (.sneReg x y) s⟩

end Sys2Proof.Machine
end

section
/-! PROOFS. Where the model stops (42_load_arithmetic.md R121, 70_reset_and_hazards.md R234): every instruction and
every transaction answers a next state, but for the two refusals the spec asks for. -/

namespace Sys2Proof.Machine

open Sys2Proof.Safety

/-- Settles O43: under its guard an instruction runs; outside, it records a fault in a next state or is refused. -/
theorem everyInstructionRuns : Obligations.EveryInstructionRuns := by
  intro i s
  by_cases hg : Guard i s
  · exact .inl ⟨_, exec_of_guard hg⟩
  · rcases exec_of_not_guard hg with ⟨f, -, he⟩ | ⟨halias, hp, he⟩
    · exact .inl ⟨_, he⟩
    · exact .inr ⟨he, hp, halias⟩

/-- A Cycle stops only where a running block has fetched an aliasing form under `refuse`
(42_load_arithmetic.md R121). -/
theorem cycle_next_or_vfAlias (s : State) :
    (∃ t, cycle s = .next t) ∨
    (cycle s = .refused .vfAlias ∧ s.params.vfAliasPolicy = .refuse ∧ s.fault = none ∧
      ∃ w i, s.fetch = .ok w ∧ decodeWord w = .ok i ∧ AliasForm i) := by
  rcases cycle_cases s with ⟨-, hc⟩ | ⟨-, f, w, -, hc⟩ | ⟨hrun, w, i, hw, hi, hc⟩
  · exact .inl ⟨_, hc⟩
  · exact .inl ⟨_, hc⟩
  · rcases everyInstructionRuns i { s with started := true } with ⟨t, he⟩ | ⟨he, hp, halias⟩
    · exact .inl ⟨t, hc.trans he⟩
    · exact .inr ⟨hc.trans he, hp, hrun, w, i, hw, hi, halias⟩

/-- LoadRom stops only after a Cycle has begun (70_reset_and_hazards.md R234). -/
theorem loadRom_next_or_afterCycle (bytes : List Byte) (s : State) :
    (∃ t, loadRom bytes s = .next t) ∨ (loadRom bytes s = .refused .loadRomAfterCycle ∧ s.started = true) := by
  rcases loadRom_cases bytes s with ⟨hs, hr⟩ | ⟨-, -, hr⟩ | ⟨-, -, hr⟩
  · exact .inr ⟨hr, hs⟩
  · exact .inl ⟨_, hr⟩
  · exact .inl ⟨_, hr⟩

/-- Settles O44, by cases on the transaction the step performs: Tick, Reset and a change of the keypad always answer a
next state. -/
theorem stepStopsOnlyWhereTheSpecRefuses : Obligations.StepStopsOnlyWhereTheSpecRefuses := by
  intro s
  rcases step_cases s with ⟨rest, hc, hs⟩ | ⟨rest, -, hs⟩ | ⟨rest, -, hs⟩ | ⟨bytes, rest, hd, hs⟩ | ⟨keys, rest, -, hs⟩
  · rcases cycle_next_or_vfAlias { s with driver := rest } with ⟨t, ht⟩ | ⟨hr, hp, hrun, hword⟩
    · exact .inl ⟨t, hs.trans ht⟩
    · exact .inr (.inl ⟨hs.trans hr, hp, hrun, ⟨rest, hc⟩, hword⟩)
  · exact .inl ⟨_, hs⟩
  · exact .inl ⟨_, hs⟩
  · rcases loadRom_next_or_afterCycle bytes { s with driver := rest } with ⟨t, ht⟩ | ⟨hr, hstarted⟩
    · exact .inl ⟨t, hs.trans ht⟩
    · exact .inr (.inr ⟨hs.trans hr, hstarted, bytes, rest, hd⟩)
  · exact .inl ⟨_, hs⟩

end Sys2Proof.Machine
end

section
/-! PROOFS. Load and arithmetic (42_load_arithmetic.md R120 to R132). Two lemmas say what the family does: an
instruction writes Vx alone, or the flag and then the result. Each instruction adds the value it computes. -/

namespace Sys2Proof.Machine

open Sys2Proof.Safety

/-! ### What the family writes -/

/-- An instruction that sets one register and ends with `next` writes that register and PC alone. -/
theorem exec_of_effect_setReg {i : Instr} {s : State} {d : Reg} {b : Byte} (hg : Guard i s)
    (he : effect i s = (s.setReg d b).setPc (s.pc + 2)) :
    ∃ t, exec i s = .next t ∧ t.reg d = b ∧ RegsBut [d] s t ∧ t.pc = s.pc + 2 ∧ Frame [.regs, .pc] s t := by
  refine ⟨_, (exec_of_guard hg).trans (congrArg _ he), State.setReg_reg_self s d b, fun r hr => ?_, rfl,
    (State.setReg_frame s).trans (State.setPc_frame _)⟩
  exact State.setReg_reg_of_ne s b (List.ne_of_not_mem_cons hr)

/-- An instruction that sets VF, then its destination, and ends with `next` leaves the flag in VF unless VF is the
destination, and writes these two registers and PC alone (42_load_arithmetic.md R121). -/
theorem exec_of_effect_setFlagThenReg {i : Instr} {s : State} {f : Byte} {d : Reg} {b : Byte} (hg : Guard i s)
    (he : effect i s = (s.setFlagThenReg f d b).setPc (s.pc + 2)) :
    ∃ t, exec i s = .next t ∧ t.reg d = b ∧ (d ≠ vF → t.reg vF = f) ∧ RegsBut [d, vF] s t ∧
      t.pc = s.pc + 2 ∧ Frame [.regs, .pc] s t := by
  refine ⟨_, (exec_of_guard hg).trans (congrArg _ he), State.setReg_reg_self _ d b, fun hd => ?_, fun r hr => ?_,
    rfl, (State.setFlagThenReg_frame s).trans (State.setPc_frame _)⟩
  · simp [State.setFlagThenReg_reg, hd.symm]
  · obtain ⟨hd, hf⟩ : r ≠ d ∧ r ≠ vF := by simpa using hr
    exact State.setFlagThenReg_reg_of_ne s f b hd hf

/-! ### The values computed -/

/-- SHR's result fits in a byte as it is (42_load_arithmetic.md R130). -/
theorem toNat_half8 (b : Byte) : (half8 b).toNat = b.toNat / 2 := by
  have := b.isLt
  rw [half8, toNat_u8]
  omega

theorem toNat_lowBitFlag (b : Byte) : (lowBitFlag b).toNat = b.toNat % 2 := by
  rw [lowBitFlag, toNat_u8]
  omega

theorem toNat_highBitFlag (b : Byte) : (highBitFlag b).toNat = b.toNat / 128 := by
  have := b.isLt
  rw [highBitFlag, toNat_u8]
  omega

theorem flag_decide (p : Prop) [Decidable p] : flag (decide p) = if p then 1 else 0 := by
  simp only [flag, decide_eq_true_eq]

/-! ### `VF_ALIAS_POLICY` -/

/-- Where the policy lets an aliasing case run, the gate on `c`, which tests for that case, is open
(42_load_arithmetic.md R121). -/
theorem gate_of_aliasRuns {c : Bool} {aliases : Prop} {s : State} (hc : c = true ↔ aliases)
    (h : AliasRuns aliases s) : c = false ∨ s.params.vfAliasPolicy = .snapshot :=
  h.imp_left fun hn => Bool.eq_false_iff.2 (mt hc.1 hn)

/-- Settles O28: each form is behind the gate of `VF_ALIAS_POLICY`, on the test of its own aliasing case. -/
theorem aliasingRefusedUnderRefuse : Obligations.AliasingRefusedUnderRefuse := by
  intro x y s hp
  constructor
  · intro h
    have hxy := vfAmong_eq_true.2 h
    exact ⟨aliasGate_refuse hxy hp _, aliasGate_refuse hxy hp _, aliasGate_refuse hxy hp _⟩
  · intro h
    have hy := beq_iff_eq.2 h
    exact ⟨aliasGate_refuse hy hp _, aliasGate_refuse hy hp _⟩

/-! ### Loads, ADD Vx, kk and the logical operations -/

/-- Settles O23: each of the three sets Vx and no flag. -/
theorem loadsAndAddImmediate : Obligations.LoadsAndAddImmediate := by
  intro x y kk s
  refine ⟨exec_of_effect_setReg (i := .ldImm x kk) trivial rfl,
    exec_of_effect_setReg (i := .ldReg x y) trivial rfl, ?_⟩
  obtain ⟨t, ht, hx, hrest⟩ := exec_of_effect_setReg (i := .addImm x kk) (s := s) trivial rfl
  exact ⟨t, ht, by rw [hx, sum8, toNat_u8], hrest⟩

/-- Settles O24: each of the three sets Vx and no flag, and its bits are those of the operation on bit vectors. -/
theorem logicalOperations : Obligations.LogicalOperations := by
  intro x y s
  refine ⟨?_, ?_, ?_⟩
  · obtain ⟨t, ht, hx, hrest⟩ := exec_of_effect_setReg (i := .orReg x y) (s := s) trivial rfl
    exact ⟨t, ht, fun b _ => by rw [hx, BitVec.getLsbD_or], hrest⟩
  · obtain ⟨t, ht, hx, hrest⟩ := exec_of_effect_setReg (i := .andReg x y) (s := s) trivial rfl
    exact ⟨t, ht, fun b _ => by rw [hx, BitVec.getLsbD_and], hrest⟩
  · obtain ⟨t, ht, hx, hrest⟩ := exec_of_effect_setReg (i := .xorReg x y) (s := s) trivial rfl
    exact ⟨t, ht, fun b _ => by rw [hx, BitVec.getLsbD_xor], hrest⟩

/-! ### ADD, SUB, SUBN and the shifts -/

/-- Settles O25: the sum is narrowed at the end, and the carry is the flag written before it. -/
theorem addSetsCarry : Obligations.AddSetsCarry := by
  intro x y s h
  have hg : Guard (.addReg x y) s := gate_of_aliasRuns vfAmong_eq_true h
  obtain ⟨t, ht, hx, hf, hrest⟩ := exec_of_effect_setFlagThenReg hg rfl
  exact ⟨t, ht, by rw [hx, sum8, toNat_u8], fun hne => (hf hne).trans (flag_decide _), hrest⟩

/-- Settles O26: SUBN is SUB with the operands of the difference and of the flag exchanged. -/
theorem subtractSetsNotBorrow : Obligations.SubtractSetsNotBorrow := by
  intro x y s h
  have hg : Guard (.subReg x y) s := gate_of_aliasRuns vfAmong_eq_true h
  have hg' : Guard (.subnReg x y) s := hg
  constructor
  · obtain ⟨t, ht, hx, hf, hrest⟩ := exec_of_effect_setFlagThenReg hg rfl
    exact ⟨t, ht, by rw [hx, diff8, toNat_u8], fun hne => (hf hne).trans (flag_decide _), hrest⟩
  · obtain ⟨t, ht, hx, hf, hrest⟩ := exec_of_effect_setFlagThenReg hg' rfl
    exact ⟨t, ht, by rw [hx, diff8, toNat_u8], fun hne => (hf hne).trans (flag_decide _), hrest⟩

/-- Settles O27: the destination of both shifts is Vy, and x occurs in neither effect. -/
theorem shiftsWorkOnVy : Obligations.ShiftsWorkOnVy := by
  intro x y s h
  have hg : Guard (.shrReg x y) s := gate_of_aliasRuns beq_iff_eq h
  have hg' : Guard (.shlReg x y) s := hg
  constructor
  · obtain ⟨t, ht, hy, hf, hrest⟩ := exec_of_effect_setFlagThenReg hg rfl
    exact ⟨t, ht, by rw [hy, toNat_half8], fun hne => by rw [hf hne, toNat_lowBitFlag], hrest⟩
  · obtain ⟨t, ht, hy, hf, hrest⟩ := exec_of_effect_setFlagThenReg hg' rfl
    exact ⟨t, ht, by rw [hy, double8, toNat_u8], fun hne => by rw [hf hne, toNat_highBitFlag], hrest⟩

end Sys2Proof.Machine
end

section
/-! PROOFS. Memory instructions (43_memory_ops.md R140 to R144): LD I, ADD I, LD B, LD [I], LD Vx,[I]. The bytes and
registers each leaves, the faults of its check, and the round trip of a store and a load. -/

namespace Sys2Proof.Machine

open Sys2Proof.Safety

/-! ### Values that fit -/

theorem toNat_u8_of_lt {n : Nat} (h : n < 256) : (u8 n).toNat = n := by
  rw [toNat_u8, Nat.mod_eq_of_lt h]

theorem toNat_u16_of_lt {n : Nat} (h : n < 65536) : (u16 n).toNat = n := by
  rw [toNat_u16, Nat.mod_eq_of_lt h]

/-- The new I is exact where the last access was in the address space, 0x1000 included (43_memory_ops.md R143, R144). -/
theorem State.toNat_advancedI {s : State} {x : Reg} (h : s.i.toNat + x.val ≤ 0xFFF) :
    (s.advancedI x).toNat = s.i.toNat + x.val + 1 :=
  toNat_u16_of_lt (by omega)

/-! ### What a store or a load leaves -/

/-- A byte stored reads as stored, by its offset. -/
theorem State.storeBytes_byteAt_add (s : State) (a : Nat) {bs : List Byte} {k : Nat} (hk : k < bs.length) :
    (s.storeBytes a bs).byteAt (a + k) = bs[k] := by
  rw [State.storeBytes_byteAt, dif_pos (by omega)]
  simp only [Nat.add_sub_cancel_left]

/-- LD B leaves the k-th decimal digit of Vx at I + k (43_memory_ops.md R142). -/
theorem effect_ldB_byteAt {x : Reg} {k : Nat} (hk : k < 3) (s : State) :
    (effect (.ldB x) s).byteAt (s.i.toNat + k) = (bcdDigits (s.reg x))[k]'hk :=
  State.storeBytes_byteAt_add s s.i.toNat (bs := bcdDigits (s.reg x)) hk

/-- LD Vx, [I] leaves in V[k] the byte at I + k up to x, and the old value above (43_memory_ops.md R144). -/
theorem effect_loadRegs_reg (x k : Reg) (s : State) :
    (effect (.loadRegs x) s).reg k = if k.val ≤ x.val then s.byteAt (s.i.toNat + k.val) else s.reg k := by
  have hget := State.loadedRegs_get s s.i.toNat (x.val + 1) k
  simp only [Nat.lt_succ_iff] at hget
  exact hget

/-! ### The faults of the check -/

theorem raises_of_exec_eq {i : Instr} {s : State} {f : Fault} (h : exec i s = raiseFrom i f s) : Raises i s f :=
  ⟨_, h, rfl⟩

/-- LD B raises the fault of the check on its three writes (43_memory_ops.md R142). -/
theorem raises_ldB_of_write_fault {x : Reg} {s : State} {f : Fault}
    (h : firstFault memWriteFault s.i.toNat 3 = some f) : Raises (.ldB x) s f :=
  raises_of_exec_eq (by simp only [exec, execLdB, h])

/-- LD [I], Vx raises the fault of the check on its writes (43_memory_ops.md R143). -/
theorem raises_storeRegs_of_write_fault {x : Reg} {s : State} {f : Fault}
    (h : firstFault memWriteFault s.i.toNat (x.val + 1) = some f) : Raises (.storeRegs x) s f :=
  raises_of_exec_eq (by simp only [exec, execStoreRegs, h])

/-- LD Vx, [I] raises the fault of the check on its reads (43_memory_ops.md R144). -/
theorem raises_loadRegs_of_read_fault {x : Reg} {s : State} {f : Fault}
    (h : firstFault memReadFault s.i.toNat (x.val + 1) = some f) : Raises (.loadRegs x) s f :=
  raises_of_exec_eq (by simp only [exec, execLoadRegs, h])

/-! ### LD I and ADD I -/

/-- Settles O29: LD I has no guard, and 16 bits hold nnn. -/
theorem ldISetsTheIndex : Obligations.LdISetsTheIndex := by
  intro nnn s
  exact ⟨_, exec_of_guard (i := .ldI nnn) trivial, toNat_zextAddr nnn, rfl, effect_frame (.ldI nnn) s⟩

/-- Settles O30: the guard of ADD I is that 16 bits hold the sum. -/
theorem addIAddsOrFaults : Obligations.AddIAddsOrFaults := by
  intro x s
  constructor
  · intro h
    have hg : Guard (.addI x) s := h
    exact ⟨_, exec_of_guard hg, toNat_u16_of_lt (by omega), rfl, effect_frame (.addI x) s⟩
  · intro h
    exact raises_of_exec_eq (if_pos h)

/-! ### LD B -/

/-- Settles O31: a decimal digit fits in a byte, and the check on the three writes gives the faults. -/
theorem ldBStoresDecimalDigits : Obligations.LdBStoresDecimalDigits := by
  intro x s
  refine ⟨fun hlo hhi => ?_, fun h => ?_, fun h => ?_⟩
  · have hg : Guard (.ldB x) s := ⟨hlo, by omega⟩
    have hv := (s.reg x).isLt
    refine ⟨_, exec_of_guard hg, ?_, ?_, ?_, fun _ => effect_ldB_byteAt_of_outside, rfl, effect_frame (.ldB x) s⟩
    · exact (congrArg _ (effect_ldB_byteAt (k := 0) (by decide) s)).trans (toNat_u8_of_lt (by omega))
    · exact (congrArg _ (effect_ldB_byteAt (k := 1) (by decide) s)).trans (toNat_u8_of_lt (by omega))
    · exact (congrArg _ (effect_ldB_byteAt (k := 2) (by decide) s)).trans (toNat_u8_of_lt (by omega))
  · exact raises_ldB_of_write_fault (firstFault_write_eq_protected (by decide) h)
  · exact raises_ldB_of_write_fault (firstFault_write_eq_outOfBounds (by decide) (by omega) (by omega))

/-! ### LD [I] and LD Vx,[I] -/

/-- Settles O32: under its guard LD [I] stores, and the check on its writes gives the faults. -/
theorem storeRegsStoresAndAdvances : Obligations.StoreRegsStoresAndAdvances := by
  intro x s
  refine ⟨fun hlo hhi => ?_, fun h => ?_, fun h => ?_⟩
  · have hg : Guard (.storeRegs x) s := ⟨hlo, by omega⟩
    exact ⟨_, exec_of_guard hg, fun k hk => effect_storeRegs_byteAt hk s,
      fun _ => effect_storeRegs_byteAt_of_outside, State.toNat_advancedI hhi, rfl, effect_frame (.storeRegs x) s⟩
  · exact raises_storeRegs_of_write_fault (firstFault_write_eq_protected (by omega) h)
  · exact raises_storeRegs_of_write_fault (firstFault_write_eq_outOfBounds (by omega) (by omega) (by omega))

/-- Settles O33: under its guard LD Vx,[I] loads, and the check on its reads gives the fault. -/
theorem loadRegsLoadsAndAdvances : Obligations.LoadRegsLoadsAndAdvances := by
  intro x s
  constructor
  · intro h
    have hg : Guard (.loadRegs x) s := show s.i.toNat + (x.val + 1) ≤ 0x1000 by omega
    exact ⟨_, exec_of_guard hg, fun k => effect_loadRegs_reg x k s, State.toNat_advancedI h, rfl,
      effect_frame (.loadRegs x) s⟩
  · intro h
    exact raises_loadRegs_of_read_fault (firstFault_read_eq_some (by omega) (by omega))

/-- Settles O34: LD [I] left V[k] at I + k, and LD Vx,[I] reads it there, whatever the registers hold. -/
theorem storeThenLoadRestoresRegisters : Obligations.StoreThenLoadRestoresRegisters := by
  intro x s v hlo hhi
  obtain ⟨t, hstore, hbytes, -, hti, -, -⟩ := (storeRegsStoresAndAdvances x s).1 hlo hhi
  obtain ⟨u, hload, hregs, hui, -, -⟩ := (loadRegsLoadsAndAdvances x { t with v := v, i := s.i }).1 hhi
  refine ⟨t, u, hstore, hload, fun k hk => ?_, hti, hui⟩
  calc u.reg k = t.byteAt (s.i.toNat + k.val) := (hregs k).trans (if_pos hk)
    _ = s.reg k := hbytes k hk

end Sys2Proof.Machine
end

section
/-! PROOFS. Random (44_random.md R150, R151): RND. It is LD Vx of the masked byte, at the state that has consumed it. -/

namespace Sys2Proof.Safety

/-- A change within a frame is within every larger one. -/
theorem Frame.mono {a b : List Part} {s t : Machine.State} (h : Frame a s t) (hab : a ⊆ b) : Frame b s t :=
  fun p hp => h p (mt (@hab p) hp)

end Sys2Proof.Safety

namespace Sys2Proof.Machine

open Sys2Proof.Safety

theorem exec_rnd_eq_exec_ldImm (x : Reg) (kk : Byte) (s : State) :
    exec (.rnd x kk) s = exec (.ldImm x (s.nextRandom &&& kk)) s.consumeRandom := rfl

/-- Where consuming the byte `b` changes part `q` alone, RND writes `b` masked to Vx, advances PC, and leaves the supply
as consumed (44_random.md R151). -/
theorem exec_rnd_of_consumed (x : Reg) (kk : Byte) {s u : State} {b : Byte} {q : Part}
    (hc : s.nextRandom = b ∧ s.consumeRandom = u) (hq : Frame [q] s u) :
    ∃ t, exec (.rnd x kk) s = .next t ∧ t.reg x = b &&& kk ∧ t.rand = u.rand ∧ t.draws = u.draws ∧
      RegsBut [x] s t ∧ t.pc = s.pc + 2 ∧ Frame [.regs, q, .pc] s t := by
  obtain ⟨rfl, rfl⟩ := hc
  obtain ⟨t, ht, hx, hregs, hpc, hframe⟩ :=
    exec_of_effect_setReg (i := .ldImm x (s.nextRandom &&& kk)) (s := s.consumeRandom) trivial rfl
  have hrest : Frame [.regs, q, .pc] s t := (hq.trans hframe).mono (by simp)
  exact ⟨t, (exec_rnd_eq_exec_ldImm x kk s).trans ht, hx, hframe .rand (by decide), hframe .draws (by decide),
    fun r hr => (hregs r hr).trans (s.consumeRandom_reg r), hpc.trans (by rw [State.consumeRandom_pc]), hrest⟩

/-- Settles O36: a supplied byte leaves the supply alone changed, a free one the count of draws. -/
theorem rndMasksOneRandomByte : Obligations.RndMasksOneRandomByte := by
  intro x kk s
  constructor
  · intro b bs h
    have hq : Frame [.rand] s { s with rand := bs } := by rintro ⟨⟩ <;> simp [Same, State.reg, State.byteAt]
    obtain ⟨t, ht, hx, hrand, -, hrest⟩ := exec_rnd_of_consumed x kk (State.consumeRandom_of_supplied h) hq
    exact ⟨t, ht, hx, hrand, hrest⟩
  · intro h
    have hq : Frame [.draws] s { s with draws := s.draws + 1 } := by
      rintro ⟨⟩ <;> simp [Same, State.reg, State.byteAt]
    obtain ⟨t, ht, hx, -, hdraws, hrest⟩ := exec_rnd_of_consumed x kk (State.consumeRandom_of_none h) hq
    exact ⟨t, ht, hx, hdraws, hrest⟩

end Sys2Proof.Machine
end

section
/-! PROOFS. Sprite draw (45_sprite_draw.md R160, R161): DRW. Under its guard the effect is the blit, and the laws of the
blit say what it does to one pixel and to the collision flag. -/

namespace Sys2Proof.Machine

open Sys2Proof.Safety

/-! ### The pixels a sprite sets -/

/-- On the grid, the hits the blit reports are the pixels the sprite sets. -/
theorem spriteHits_iff_spriteSets (s : State) (cx cy n : Nat) {px py : Nat} (hx : px < 64) (hy : py < 32) :
    SpriteHits s cx cy n px py ↔ SpriteSets s cx cy n px py := by
  simp only [SpriteHits, RowSets, SpriteSets, Nat.mod_eq_of_lt hx, Nat.mod_eq_of_lt hy]

/-- The pixels a sprite sets depend on memory and I alone. -/
theorem spriteSets_congr {s t : State} (hi : t.i = s.i) (hm : ∀ a, t.byteAt a = s.byteAt a) (cx cy n px py : Nat) :
    SpriteSets t cx cy n px py ↔ SpriteSets s cx cy n px py := by
  simp only [SpriteSets, hi, hm]

/-- The blit reports a collision iff the sprite sets a pixel that was set before the draw. -/
theorem collision_blitRows_iff_spriteSets (s : State) (cx cy : Nat) {n : Nat} (hn : n ≤ 32) :
    (s.blitRows cx cy (s.fb, false) n).2 = true ↔
      ∃ px py, px < 64 ∧ py < 32 ∧ s.pixel px py = true ∧ SpriteSets s cx cy n px py := by
  have reduced (px py : Nat) : s.pixel (px % 64) (py % 32) = s.pixel px py :=
    Framebuffer.pixel_congr s.fb (Nat.mod_mod ..) (Nat.mod_mod ..)
  rw [collision_blitRows s cx cy _ hn, or_iff_right Bool.false_ne_true]
  constructor
  · rintro ⟨r, hr, b, hb, hpixel, hbit⟩
    exact ⟨(cx + b) % 64, (cy + r) % 32, Nat.mod_lt _ (by decide), Nat.mod_lt _ (by decide),
      (reduced _ _).trans hpixel, r, hr, b, hb, rfl, rfl, hbit⟩
  · rintro ⟨_, _, -, -, hpixel, r, hr, b, hb, rfl, rfl, hbit⟩
    exact ⟨r, hr, b, hb, (reduced _ _).symm.trans hpixel, hbit⟩

/-! ### What DRW leaves on the screen and in VF -/

theorem effect_drw_pixel (x y : Reg) {n : Nat} (s : State) (hn : n ≤ 32) (px py : Nat) :
    (effect (.drw x y n) s).pixel px py =
      (s.pixel px py ^^ decide (SpriteHits s (s.reg x).toNat (s.reg y).toNat n px py)) :=
  pixel_blitRows s _ _ (s.fb, false) hn px py

theorem effect_drw_vF (x y : Reg) (n : Nat) (s : State) :
    (effect (.drw x y n) s).reg vF = flag (s.blitRows (s.reg x).toNat (s.reg y).toNat (s.fb, false) n).2 :=
  State.setReg_reg_self _ vF _

/-- DRW writes no register but VF (45_sprite_draw.md R161). -/
theorem effect_drw_regsBut_vF (x y : Reg) (n : Nat) (s : State) : RegsBut [vF] s (effect (.drw x y n) s) :=
  fun _ hr => State.setReg_reg_of_ne _ _ (List.ne_of_not_mem_cons hr)

/-- Settles O40: on the grid the blit is one exclusive or per pixel, and its collision flag goes to VF. -/
theorem drawIsPixelwiseXor : Obligations.DrawIsPixelwiseXor := by
  intro x y n s hn hg
  have hrows : n ≤ 32 := by omega
  have hcollision := collision_blitRows_iff_spriteSets s (s.reg x).toNat (s.reg y).toNat hrows
  have hframe : Frame [.regs, .fb, .repaints, .pc] s (effect (.drw x y n) s) :=
    (effect_frame (.drw x y n) s).mono (by simp [writtenParts])
  refine ⟨_, exec_of_guard hg, fun px py hx hy => ⟨fun hset => ?_, fun hset => ?_⟩, fun hhit => ?_, fun hmiss => ?_,
    rfl, rfl, effect_drw_regsBut_vF x y n s, hframe⟩
  · rw [← spriteHits_iff_spriteSets s _ _ _ hx hy] at hset
    rw [effect_drw_pixel x y s hrows, decide_eq_true hset, Bool.xor_true]
  · rw [← spriteHits_iff_spriteSets s _ _ _ hx hy] at hset
    rw [effect_drw_pixel x y s hrows, decide_eq_false hset, Bool.xor_false]
  · rw [effect_drw_vF, hcollision.2 hhit]
    rfl
  · have hclear : (s.blitRows (s.reg x).toNat (s.reg y).toNat (s.fb, false) n).2 = false :=
      Bool.eq_false_iff.2 (mt hcollision.1 fun ⟨px, py, hx, hy, hpixel, hset⟩ => hmiss px py hx hy hpixel hset)
    rw [effect_drw_vF, hclear]
    rfl

/-- Settles O42: the second draw sets the same pixels as the first, so it inverts each of them back, and it collides
where the first draw left a pixel set that was unset before. -/
theorem drawTwiceRestoresTheScreen : Obligations.DrawTwiceRestoresTheScreen := by
  intro x y n s t hn hg ht hx hy
  obtain ⟨t', ht', hfirst, -, -, -, -, -, hframe⟩ := drawIsPixelwiseXor x y n s hn hg
  cases ht'.symm.trans ht
  have hi : t.i = s.i := hframe .i (by decide)
  obtain ⟨u, hu, hsecond, hcollide, hmiss, -⟩ := drawIsPixelwiseXor x y n t hn (by rwa [hi])
  simp only [hx, hy, spriteSets_congr hi (hframe .mem (by decide))] at hsecond hcollide hmiss
  refine ⟨u, hu, Framebuffer.ext_pixel fun px py hpx hpy => ?_, ?_,
    fun hnone => hmiss fun px py hpx hpy hpixel hset => ?_⟩
  · show u.pixel px py = s.pixel px py
    by_cases hset : SpriteSets s (s.reg x).toNat (s.reg y).toNat n px py
    · rw [(hsecond px py hpx hpy).1 hset, (hfirst px py hpx hpy).1 hset, Bool.not_not]
    · rw [(hsecond px py hpx hpy).2 hset, (hfirst px py hpx hpy).2 hset]
  · rintro ⟨px, py, hpx, hpy, hpixel, hset⟩
    exact hcollide ⟨px, py, hpx, hpy, by rw [(hfirst px py hpx hpy).1 hset, hpixel, Bool.not_false], hset⟩
  · rw [(hfirst px py hpx hpy).1 hset, Bool.not_eq_true'] at hpixel
    exact hnone px py hpx hpy hpixel hset

end Sys2Proof.Machine
end

section
/-! PROOFS. Input (46_input.md R170, R171): SKP and SKNP, which write PC alone by the level of the key Vx names, and
fault where Vx names none. -/

namespace Sys2Proof.Machine

open Sys2Proof.Safety

/-- The level the effects of SKP and SKNP look up is that of the key Vx names (46_input.md R170, R171). -/
theorem keys_getD_of_reg_eq {x : Reg} {s : State} {k : Fin 16} (hk : (s.reg x).toNat = k.val) :
    (s.keys[(s.reg x).toNat]?).getD false = s.keys[k] := by
  rw [hk, Vector.getElem?_eq_getElem k.isLt]
  rfl

/-- SKP advances PC by 4 if the key is pressed (46_input.md R170). -/
theorem effect_skp_pc {x : Reg} {s : State} {k : Fin 16} (hk : (s.reg x).toNat = k.val) :
    (effect (.skp x) s).pc = s.pc + if s.keys[k] = true then 4 else 2 := by
  rw [effect, State.setPc_pc, keys_getD_of_reg_eq hk]

/-- SKNP advances PC by 2 if the key is pressed (46_input.md R171). -/
theorem effect_sknp_pc {x : Reg} {s : State} {k : Fin 16} (hk : (s.reg x).toNat = k.val) :
    (effect (.sknp x) s).pc = s.pc + if s.keys[k] = true then 2 else 4 := by
  rw [effect, State.setPc_pc, keys_getD_of_reg_eq hk]
  cases s.keys[k] <;> rfl

/-- Settles O37: the guard of both forms is that Vx names a key; outside it, the lookup of the key is their fault. -/
theorem skipsOnKeys : Obligations.SkipsOnKeys := by
  intro x s
  constructor
  · intro k hk
    have hg : (s.reg x).toNat < 16 := hk.trans_lt k.isLt
    exact ⟨⟨_, exec_of_guard (i := .skp x) hg, effect_skp_pc hk, effect_frame (.skp x) s⟩,
      ⟨_, exec_of_guard (i := .sknp x) hg, effect_sknp_pc hk, effect_frame (.sknp x) s⟩⟩
  · intro h
    exact ⟨raises_of_exec_eq (by simp only [exec, execSkp, State.keyOf_error h]),
      raises_of_exec_eq (by simp only [exec, execSknp, State.keyOf_error h])⟩

end Sys2Proof.Machine
end

section
/-! PROOFS. Timer and glyph instructions (47_timers.md R180 to R183): LD Vx, DT; LD DT, Vx; LD ST, Vx; LD F, Vx. -/

namespace Sys2Proof.Machine

open Sys2Proof.Safety

/-- Settles O38: none of the three has a guard, and each effect is one transfer and PC + 2. -/
theorem timerTransfers : Obligations.TimerTransfers := by
  intro x s
  refine ⟨?_, ?_, ?_⟩
  · exact exec_of_effect_setReg (i := .ldVxDt x) trivial rfl
  · exact ⟨_, exec_of_guard (i := .ldDtVx x) trivial, rfl, rfl, effect_frame (.ldDtVx x) s⟩
  · exact ⟨_, exec_of_guard (i := .ldStVx x) trivial, rfl, rfl, effect_frame (.ldStVx x) s⟩

/-- Settles O39: the guard of LD F is that Vx is a digit, and five times a digit fits in I. -/
theorem ldFPointsAtTheGlyph : Obligations.LdFPointsAtTheGlyph := by
  intro x s
  constructor
  · intro h
    have hg : Guard (.ldF x) s := h
    exact ⟨_, exec_of_guard hg, toNat_u16_of_lt (by omega), rfl, effect_frame (.ldF x) s⟩
  · intro h
    exact raises_of_exec_eq (if_pos h)

end Sys2Proof.Machine
end

section
/-! PROOFS. What each transaction leaves unchanged (10_state.md R40): the frames of Tick, Reset, LoadRom and a change of
the keypad, and of taking one of them off the queue. -/

namespace Sys2Proof.Machine

open Sys2Proof.Safety

/-- Taking a transaction off the queue changes the queue alone. -/
theorem State.setDriver_frame (s : State) {rest : List Transaction} :
    Frame [.driver] s { s with driver := rest } := by
  rintro ⟨⟩ <;> simp [Same, State.reg, State.byteAt]

/-- Setting LoadRom's report changes the report alone. -/
theorem State.setLoadReport_frame (s : State) {e : Option LoadError} :
    Frame [.loadReport] s { s with loadReport := e } := by
  rintro ⟨⟩ <;> simp [Same, State.reg, State.byteAt]

theorem tick_frame (s : State) : Frame [.dt, .st] s (tick s) := by
  rintro ⟨⟩ <;> simp [Same, tick, State.reg, State.byteAt]

theorem setKeys_frame (keys : Keypad) (s : State) : Frame [.keys] s (setKeys keys s) := by
  rintro ⟨⟩ <;> simp [Same, setKeys, State.reg, State.byteAt]

theorem resetBlock_frame (s : State) :
    Frame [.mem, .regs, .i, .pc, .sp, .dt, .st, .fb, .fault, .started] s (resetBlock s) := by
  rintro ⟨⟩ <;> simp [Same, resetBlock]

/-- What a transaction leaves, the step that takes it off the queue leaves too. -/
theorem frame_of_dequeued {s t : State} {rest : List Transaction} {a : List Part}
    (h : Frame a { s with driver := rest } t) : Frame (a ++ [.driver]) s t :=
  (s.setDriver_frame.trans h).mono (by simp)

/-- LoadRom writes memory and its report alone, whether it stores the ROM or reports it. -/
theorem loadRom_frame {bytes : List Byte} {s t : State} (h : loadRom bytes s = .next t) :
    Frame [.mem, .loadReport] s t := by
  rcases loadRom_cases bytes s with ⟨-, hr⟩ | ⟨-, -, hr⟩ | ⟨-, -, hr⟩
  · cases hr.symm.trans h
  · cases hr.symm.trans h
    exact s.setLoadReport_frame.mono (by simp)
  · cases hr.symm.trans h
    exact (s.setLoadReport_frame.trans (State.storeBytes_frame _)).mono (by simp)

end Sys2Proof.Machine
end

section
/-! PROOFS. The faults of an instruction (60_exceptions.md R200, R201) and DT over a step (R210). -/

namespace Sys2Proof.Machine

open Sys2Proof.Safety

/-! ### The kinds of fault -/

/-- Every in-cycle kind but UnknownOpcode has a code from 2 to 7 (60_exceptions.md R200). -/
theorem Fault.code_bounds_of_ne_unknownOpcode {f : Fault} (h : f ≠ .unknownOpcode) : 2 ≤ f.code ∧ f.code ≤ 7 := by
  cases f with
  | unknownOpcode => exact absurd rfl h
  | _ => simp [Fault.code]

/-- UnknownOpcode is the fault of a word that is no instruction, and no instruction raises it
(60_exceptions.md R201). -/
theorem ne_unknownOpcode_of_mayRaise {i : Instr} {f : Fault} (h : MayRaise i f) : f ≠ .unknownOpcode := by
  rintro rfl
  cases i <;> simp [MayRaise] at h

/-- Settles O45: an effect records no fault, so the record is the fault entry of a kind R201 lists. -/
theorem faultsAreThoseListed : Obligations.FaultsAreThoseListed := by
  intro i s t r hrun h hr
  rcases exec_next_cases h with ⟨-, rfl⟩ | ⟨f, hf, rfl⟩
  · rw [effect_fault, hrun] at hr
    cases hr
  · cases hr
    obtain ⟨hlo, hhi⟩ := Fault.code_bounds_of_ne_unknownOpcode (ne_unknownOpcode_of_mayRaise hf)
    exact ⟨hf, hlo, hhi, rfl, rfl⟩

/-! ### DT over a step -/

/-- No instruction but LD DT, Vx changes DT, whether it runs or faults. -/
theorem exec_keeps_dt {i : Instr} {s t : State} (hi : ∀ x, i ≠ .ldDtVx x) (h : exec i s = .next t) :
    t.dt = s.dt := by
  rcases exec_next_cases h with ⟨-, rfl⟩ | ⟨f, -, rfl⟩
  · by_contra hne
    obtain ⟨x, hx⟩ := effect_dt_writer hne
    exact hi x hx
  · rfl

/-- A Cycle leaves DT unless the word at PC is LD DT, Vx. -/
theorem cycle_keeps_dt {s t : State} (hw : ∀ w x, s.fetch = .ok w → decodeWord w ≠ .ok (.ldDtVx x))
    (h : cycle s = .next t) : t.dt = s.dt := by
  rcases cycle_cases s with ⟨-, hc⟩ | ⟨-, f, w, -, hc⟩ | ⟨-, w, i, hf, hd, hc⟩
  · cases hc.symm.trans h
    rfl
  · cases hc.symm.trans h
    rfl
  · have hi : ∀ x, i ≠ .ldDtVx x := fun x hx => hw w x hf (hx ▸ hd)
    exact exec_keeps_dt (s := { s with started := true }) hi (hc.symm.trans h)

/-- Settles O54, by cases on the transaction the step performs: Tick decrements DT, and the others leave it. -/
theorem delayTimerOnlyFalls : Obligations.DelayTimerOnlyFalls := by
  intro s t h _ hreset hw
  have kept (he : t.dt = s.dt) : t.dt.toNat ≤ s.dt.toNat ∧ s.dt.toNat ≤ t.dt.toNat + 1 := by
    rw [he]
    omega
  rcases step_cases s with ⟨rest, -, hs⟩ | ⟨rest, -, hs⟩ | ⟨rest, hd, -⟩ | ⟨bytes, rest, -, hs⟩ |
    ⟨keys, rest, -, hs⟩
  · exact kept (cycle_keeps_dt (s := { s with driver := rest }) hw (hs.symm.trans h))
  · cases hs.symm.trans h
    have hdt := toNat_decrement s.dt
    simp only [tick]
    omega
  · exact absurd hd (hreset rest)
  · exact kept (loadRom_frame (hs.symm.trans h) .dt (by decide))
  · cases hs.symm.trans h
    exact kept rfl

end Sys2Proof.Machine
end

section
/-! PROOFS. The transactions (60_exceptions.md R205, R209; 70_reset_and_hazards.md R230 to R239): what a queued Tick,
Reset and LoadRom do, the order they run in, and the Cycles that change nothing. -/

namespace Sys2Proof.Machine

open Sys2Proof.Safety

/-! ### Halted, and Tick -/

/-- Settles O9: a halted block's Cycle answers its own state, and a Tick writes the timers alone. -/
theorem haltedBlockExecutesNothing : Obligations.HaltedBlockExecutesNothing := by
  intro s hf
  refine ⟨fun hd => ?_, fun rest hd => ?_, fun rest hd => ?_⟩
  · exact (step_of_nil hd).trans (cycle_of_halted hf)
  · exact (step_of_cons hd).trans (cycle_of_halted (s := { s with driver := rest }) hf)
  · exact ⟨_, step_of_cons hd, rfl, toNat_decrement s.dt, toNat_decrement s.st⟩

/-- A timer that is 0 stays 0 (60_exceptions.md R209). -/
theorem decrement_of_toNat_eq_zero {b : Byte} (h : b.toNat = 0) : decrement b = b :=
  if_neg (h ▸ Nat.lt_irrefl 0)

/-- Settles O10: each timer is decremented, and Tick writes the timers alone. -/
theorem tickDecrementsBothTimers : Obligations.TickDecrementsBothTimers := by
  intro s rest hd
  exact ⟨_, step_of_cons hd, fun _ => toNat_decrement s.dt, decrement_of_toNat_eq_zero,
    fun _ => toNat_decrement s.st, decrement_of_toNat_eq_zero, rfl, frame_of_dequeued (tick_frame _)⟩

/-! ### Reset -/

/-- Settles O11: Reset leaves memory and registers as in the reset state of the block's parameters. -/
theorem resetInitialisesTheBlock : Obligations.ResetInitialisesTheBlock := by
  intro s rest hd hp
  have hmem (a : Nat) : (resetBlock { s with driver := rest }).byteAt a = (State.resetWith s.params).byteAt a :=
    State.byteAt_congr rfl rfl a
  have hframe := frame_of_dequeued (resetBlock_frame { s with driver := rest })
  exact ⟨_, step_of_cons hd, fun a ha => (hmem a).trans (State.resetWith_byteAt_glyph hp ha),
    fun a ha => (hmem a).trans (State.resetWith_byteAt_above s.params ha), fun _ => rfl, rfl, rfl, rfl, rfl, rfl,
    rfl, rfl, rfl, hframe.mono (by simp)⟩

/-! ### LoadRom -/

/-- A queued LoadRom is refused once a Cycle has begun (70_reset_and_hazards.md R234). -/
theorem loadRom_of_started {bytes : List Byte} {s : State} (h : s.started = true) :
    loadRom bytes s = .refused .loadRomAfterCycle :=
  if_pos h

/-- Before the first Cycle, a ROM that fits is stored at 0x200 (70_reset_and_hazards.md R232). -/
theorem loadRom_of_length_le {bytes : List Byte} {s : State} (h : s.started = false) (hl : bytes.length ≤ 3584) :
    loadRom bytes s = .next ({ s with loadReport := none }.storeBytes 0x200 bytes) := by
  simp [loadRom, h, Nat.not_lt.2 hl]

/-- Before the first Cycle, a longer ROM is reported (70_reset_and_hazards.md R232). -/
theorem loadRom_of_lt_length {bytes : List Byte} {s : State} (h : s.started = false) (hl : 3584 < bytes.length) :
    loadRom bytes s = .next { s with loadReport := some (.romTooLarge bytes.length) } := by
  simp [loadRom, h, hl]

/-- Settles O13: a ROM that fits is stored, with the bytes outside it as before, and a longer one writes the report
alone. -/
theorem loadRomCopiesOrReports : Obligations.LoadRomCopiesOrReports := by
  intro s bytes rest hd hstarted
  have hstep : step s = loadRom bytes { s with driver := rest } := step_of_cons hd
  constructor
  · intro hl
    have hframe := frame_of_dequeued ((State.setLoadReport_frame { s with driver := rest } (e := none)).trans
      (State.storeBytes_frame _ (a := 0x200) (bs := bytes)))
    exact ⟨_, hstep.trans (loadRom_of_length_le hstarted hl), fun k hk => State.storeBytes_byteAt_add _ _ hk,
      fun p hp => State.storeBytes_byteAt_of_outside _ hp, rfl, rfl, hframe.mono (by simp)⟩
  · intro hl
    exact ⟨_, hstep.trans (loadRom_of_lt_length hstarted hl), ⟨_, rfl, rfl, rfl⟩, rfl,
      frame_of_dequeued (State.setLoadReport_frame _)⟩

/-- A Cycle of a running block that answers a next state remembers that it has begun. -/
theorem cycle_sets_started {s t : State} (hrun : s.fault = none) (h : cycle s = .next t) : t.started = true := by
  rcases cycle_cases s with ⟨hhalted, -⟩ | ⟨-, f, w, -, hc⟩ | ⟨-, w, i, -, -, hc⟩
  · exact absurd hrun hhalted
  · cases hc.symm.trans h
    rfl
  · obtain ⟨hstarted, -⟩ := exec_keeps_order (hc.symm.trans h)
    exact hstarted

/-- Settles O14, from what each of LoadRom, Cycle and Reset does with `started`. -/
theorem loadRomOnlyBeforeTheFirstCycle : Obligations.LoadRomOnlyBeforeTheFirstCycle := by
  intro s
  refine ⟨fun bytes rest hd hstarted => ?_, fun t rest hc hrun h => ?_, fun rest hd => ?_⟩
  · exact (step_of_cons hd).trans (loadRom_of_started hstarted)
  · exact cycle_sets_started (s := { s with driver := rest }) hrun ((step_of_cycleNext hc).symm.trans h)
  · exact ⟨_, step_of_cons hd, rfl⟩

/-! ### The order of transactions -/

/-- Halted, faulting or executing, a Cycle leaves the queue. -/
theorem cycle_keeps_driver {s t : State} (h : cycle s = .next t) : t.driver = s.driver := by
  rcases cycle_cases s with ⟨-, hc⟩ | ⟨-, f, w, -, hc⟩ | ⟨-, w, i, -, -, hc⟩
  · cases hc.symm.trans h
    rfl
  · cases hc.symm.trans h
    rfl
  · obtain ⟨-, hdriver, -⟩ := exec_keeps_order (hc.symm.trans h)
    exact hdriver

/-- No transaction queues another or takes one off. -/
theorem perform_keeps_driver {x : Transaction} {s t : State} (h : perform x s = .next t) : t.driver = s.driver := by
  cases x with
  | cycle => exact cycle_keeps_driver h
  | loadRom bytes => exact loadRom_frame h .driver (by decide)
  | tick | reset | setKeys keys =>
    cases h
    rfl

/-- Settles O15: the step performs the oldest transaction, and performing one leaves the queue. -/
theorem transactionsRunInOrder : Obligations.TransactionsRunInOrder := by
  intro s x rest hd
  have hstep : step s = perform x { s with driver := rest } := step_of_cons hd
  refine ⟨hstep, fun k hk => ?_, fun t h => perform_keeps_driver (hstep.symm.trans h)⟩
  subst hk
  exact ⟨_, hstep, rfl, rfl, frame_of_dequeued (setKeys_frame k _)⟩

/-! ### The self-jump -/

/-- JP to where PC stands changes nothing (40_control.md R102). -/
theorem exec_jp_of_target_eq_pc {nnn : BitVec 12} {s : State} (h : zextAddr nnn = s.pc) :
    exec (.jp nnn) s = .next s := by
  rw [exec_of_guard (i := .jp nnn) trivial, effect, h]
  rfl

/-- Settles O55: the word at PC decodes to the jump it encodes, whose target is PC. -/
theorem selfJumpChangesNothing : Obligations.SelfJumpChangesNothing := by
  intro s rest hc hrun hjump
  obtain ⟨nnn, hfetch, htarget⟩ := hjump
  rw [step_of_decoded hc hrun hfetch (decodeWord_encode rfl)]
  exact exec_jp_of_target_eq_pc (s := { s with started := true, driver := rest }) htarget

end Sys2Proof.Machine
end
